-- ==== Sys2Proof/Word.lean ====
section
/-! DEFINITION. The types of the values the spec names: bytes, words, addresses, register and key numbers (spec R8, R13). -/

namespace Sys2Proof

/-- An 8-bit unsigned value: a general register, a timer, a byte of memory, the field `kk` (R8, R13). -/
abbrev Byte := BitVec 8

/-- A 16-bit unsigned value: an instruction word, `PC`, `I`, a stack entry (R8, R30). -/
abbrev Word := BitVec 16

/-- A 12-bit address 0x000-0xFFF, the whole address space, and the field `nnn` (R8 `ADDR_BITS`, R67). -/
abbrev Addr := BitVec 12

/-- The number of a general register V0..VF; every value of a 4-bit field names one (R32, R83). -/
abbrev Reg := Fin 16

/-- The number of a keypad key, 0-15 (R8 `NUM_KEYS`, R200). -/
abbrev Key := Fin 16

end Sys2Proof
end

