-- ==== Sys2Proof/Syntax.lean ====
section
/-! DEFINITION. The instructions: one constructor per row of spec/opcode_table.json (spec R82, R85-R90). -/

namespace Sys2Proof

/-- The 35 instructions of the base CHIP-8 set and the unrecognized word (R2, R91, R106). -/
inductive Instr where
  /-- `00E0` CLS (R190). -/
  | cls
  /-- `00EE` RET (R122). -/
  | ret
  /-- `0nnn` SYS nnn (R121). -/
  | sys (nnn : Addr)
  /-- `1nnn` JP nnn (R123). -/
  | jp (nnn : Addr)
  /-- `2nnn` CALL nnn (R124). -/
  | call (nnn : Addr)
  /-- `3xkk` SE Vx, kk (R125). -/
  | seImm (x : Reg) (kk : Byte)
  /-- `4xkk` SNE Vx, kk (R126). -/
  | sneImm (x : Reg) (kk : Byte)
  /-- `5xy0` SE Vx, Vy (R127). -/
  | seReg (x y : Reg)
  /-- `6xkk` LD Vx, kk (R141). -/
  | ldImm (x : Reg) (kk : Byte)
  /-- `7xkk` ADD Vx, kk (R142). -/
  | addImm (x : Reg) (kk : Byte)
  /-- `8xy0` LD Vx, Vy (R143). -/
  | ldReg (x y : Reg)
  /-- `8xy1` OR Vx, Vy (R144). -/
  | orReg (x y : Reg)
  /-- `8xy2` AND Vx, Vy (R145). -/
  | andReg (x y : Reg)
  /-- `8xy3` XOR Vx, Vy (R146). -/
  | xorReg (x y : Reg)
  /-- `8xy4` ADD Vx, Vy (R147). -/
  | addReg (x y : Reg)
  /-- `8xy5` SUB Vx, Vy (R148). -/
  | sub (x y : Reg)
  /-- `8xy6` SHR Vx, the field `y` kept (R149). -/
  | shr (x y : Reg)
  /-- `8xy7` SUBN Vx, Vy (R150). -/
  | subn (x y : Reg)
  /-- `8xyE` SHL Vx, the field `y` kept (R151). -/
  | shl (x y : Reg)
  /-- `9xy0` SNE Vx, Vy (R128). -/
  | sneReg (x y : Reg)
  /-- `Annn` LD I, nnn (R171). -/
  | ldI (nnn : Addr)
  /-- `Bnnn` JP V0, nnn (R129). -/
  | jpV0 (nnn : Addr)
  /-- `Cxkk` RND Vx, kk (R153). -/
  | rnd (x : Reg) (kk : Byte)
  /-- `Dxyn` DRW Vx, Vy, n: `n` is the row count 0..15 (R191). -/
  | drw (x y : Reg) (n : Fin 16)
  /-- `Ex9E` SKP Vx (R201). -/
  | skp (x : Reg)
  /-- `ExA1` SKNP Vx (R202). -/
  | sknp (x : Reg)
  /-- `Fx07` LD Vx, DT (R203). -/
  | ldVxDt (x : Reg)
  /-- `Fx0A` LD Vx, K (R204). -/
  | ldVxK (x : Reg)
  /-- `Fx15` LD DT, Vx (R206). -/
  | ldDtVx (x : Reg)
  /-- `Fx18` LD ST, Vx (R207). -/
  | ldStVx (x : Reg)
  /-- `Fx1E` ADD I, Vx (R172). -/
  | addI (x : Reg)
  /-- `Fx29` LD F, Vx (R173). -/
  | ldF (x : Reg)
  /-- `Fx33` LD B, Vx (R174). -/
  | ldB (x : Reg)
  /-- `Fx55` LD [I], Vx: stores V0..Vx (R175). -/
  | storeRegs (x : Reg)
  /-- `Fx65` LD Vx, [I]: loads V0..Vx (R176). -/
  | loadRegs (x : Reg)
  /-- A word that matches no other row (R90, R106 `Unrecognized w`). -/
  | unrecognized (w : Word)
  deriving DecidableEq, Repr

end Sys2Proof
end

