-- ==== Sys2Proof/WellFormed.lean ====
section
/-! DEFINITION. Which terms of Instr stand for a word of their own row (spec R86, R90, R96). -/

namespace Sys2Proof

/-- The unrecognized words, as R90 lists them: the families 5 and 9 with `n ≠ 0`, family 8 with an `n` that selects
nothing, families E and F with a `kk` that selects nothing. The digits are those of the word's four-digit hexadecimal. -/
def unrecognizedWord (w : Word) : Bool :=
  let op := w.toNat / 4096
  let n := w.toNat % 16
  let kk := w.toNat % 256
  (op == 5 && n != 0) || (op == 9 && n != 0) ||
  (op == 8 && [8, 9, 0xA, 0xB, 0xC, 0xD, 0xF].contains n) ||
  (op == 0xE && !([0x9E, 0xA1].contains kk)) ||
  (op == 0xF && !([0x07, 0x0A, 0x15, 0x18, 0x1E, 0x29, 0x33, 0x55, 0x65].contains kk))

/-- Two checks: `SYS nnn` is not one of the exact words 00E0 and 00EE (R86), and an unrecognized word is one that R90
lists. Every other term has operands that fill their fields exactly, so it is well formed as it stands (R83, R84). -/
def Instr.wellFormed : Instr → Bool
  | .sys nnn => nnn != 0x0E0 && nnn != 0x0EE
  | .unrecognized w => unrecognizedWord w
  | .cls | .ret | .jp _ | .call _ | .seImm _ _ | .sneImm _ _ | .seReg _ _ | .ldImm _ _ | .addImm _ _ | .ldReg _ _
  | .orReg _ _ | .andReg _ _ | .xorReg _ _ | .addReg _ _ | .sub _ _ | .shr _ _ | .subn _ _ | .shl _ _ | .sneReg _ _
  | .ldI _ | .jpV0 _ | .rnd _ _ | .drw _ _ _ | .skp _ | .sknp _ | .ldVxDt _ | .ldVxK _ | .ldDtVx _ | .ldStVx _
  | .addI _ | .ldF _ | .ldB _ | .storeRegs _ | .loadRegs _ => true

end Sys2Proof
end

