-- ==== Sys2Proof/Decode.lean ====
section
/-! DEFINITION. The decoder (spec R81, R85-R91, R104-R106), the encoder from the same tables, and the opcode table's rows. -/

namespace Sys2Proof

/-- `w[hi:lo]`: the unsigned value of bits `hi` down to `lo` of `w`, inclusive (R12). -/
def bits (w : Word) (hi lo : Nat) : Nat := w.toNat / 2 ^ lo % 2 ^ (hi - lo + 1)

/-- `op` = w[15:12] (R81). -/
def fieldOp (w : Word) : Nat := bits w 15 12
/-- `x` = w[11:8] (R81). -/
def fieldX (w : Word) : Reg := Fin.ofNat 16 (bits w 11 8)
/-- `y` = w[7:4] (R81). -/
def fieldY (w : Word) : Reg := Fin.ofNat 16 (bits w 7 4)
/-- `n` = w[3:0] (R81). -/
def fieldN (w : Word) : Fin 16 := Fin.ofNat 16 (bits w 3 0)
/-- `kk` = w[7:0] (R81). -/
def fieldKk (w : Word) : Byte := BitVec.ofNat 8 (bits w 7 0)
/-- `nnn` = w[11:0] (R81). -/
def fieldNnn (w : Word) : Addr := BitVec.ofNat 12 (bits w 11 0)

/-- Family 0, by the whole word: the two exact words first, then SYS (R86). -/
def decodeFamily0 (w : Word) : Instr :=
  if w = 0x00E0 then .cls else if w = 0x00EE then .ret else .sys (fieldNnn w)

/-- Families 5 and 9: the instruction when `n = 0`, else unrecognized (R90, R105). -/
def decodeXY0 (w : Word) (made : Reg → Reg → Instr) : Instr :=
  if bits w 3 0 = 0 then made (fieldX w) (fieldY w) else .unrecognized w

/-- Family 8, by `n` (R87). -/
def decodeFamily8 (w : Word) : Instr :=
  match bits w 3 0 with
  | 0x0 => .ldReg (fieldX w) (fieldY w)
  | 0x1 => .orReg (fieldX w) (fieldY w)
  | 0x2 => .andReg (fieldX w) (fieldY w)
  | 0x3 => .xorReg (fieldX w) (fieldY w)
  | 0x4 => .addReg (fieldX w) (fieldY w)
  | 0x5 => .sub (fieldX w) (fieldY w)
  | 0x6 => .shr (fieldX w) (fieldY w)
  | 0x7 => .subn (fieldX w) (fieldY w)
  | 0xE => .shl (fieldX w) (fieldY w)
  | _ => .unrecognized w

/-- Family E, by `kk` (R88). -/
def decodeFamilyE (w : Word) : Instr :=
  if bits w 7 0 = 0x9E then .skp (fieldX w)
  else if bits w 7 0 = 0xA1 then .sknp (fieldX w)
  else .unrecognized w

/-- Family F, by `kk` (R89). -/
def decodeFamilyF (w : Word) : Instr :=
  if bits w 7 0 = 0x07 then .ldVxDt (fieldX w)
  else if bits w 7 0 = 0x0A then .ldVxK (fieldX w)
  else if bits w 7 0 = 0x15 then .ldDtVx (fieldX w)
  else if bits w 7 0 = 0x18 then .ldStVx (fieldX w)
  else if bits w 7 0 = 0x1E then .addI (fieldX w)
  else if bits w 7 0 = 0x29 then .ldF (fieldX w)
  else if bits w 7 0 = 0x33 then .ldB (fieldX w)
  else if bits w 7 0 = 0x55 then .storeRegs (fieldX w)
  else if bits w 7 0 = 0x65 then .loadRegs (fieldX w)
  else .unrecognized w

/-- Decoding is total on 16-bit words (R91): by `op` first (R85, R105), then by the family's selector (R106). -/
def decode (w : Word) : Instr :=
  match fieldOp w with
  | 0x0 => decodeFamily0 w
  | 0x1 => .jp (fieldNnn w)
  | 0x2 => .call (fieldNnn w)
  | 0x3 => .seImm (fieldX w) (fieldKk w)
  | 0x4 => .sneImm (fieldX w) (fieldKk w)
  | 0x5 => decodeXY0 w .seReg
  | 0x6 => .ldImm (fieldX w) (fieldKk w)
  | 0x7 => .addImm (fieldX w) (fieldKk w)
  | 0x8 => decodeFamily8 w
  | 0x9 => decodeXY0 w .sneReg
  | 0xA => .ldI (fieldNnn w)
  | 0xB => .jpV0 (fieldNnn w)
  | 0xC => .rnd (fieldX w) (fieldKk w)
  | 0xD => .drw (fieldX w) (fieldY w) (fieldN w)
  | 0xE => decodeFamilyE w
  | _ => decodeFamilyF w

/-- Why a list of bytes holds no instruction: fewer than the two bytes of a word (R80). -/
inductive DecodeError where
  | truncated
  deriving DecidableEq, Repr

/-- The word of two bytes, the first at the lower address: it is the high byte (R60). -/
def joinBytes (hi lo : Byte) : Word := BitVec.ofNat 16 (256 * hi.toNat + lo.toNat)

/-- The two bytes of a word as memory holds them, high byte first (R60). -/
def splitWord (w : Word) : Byte × Byte := (BitVec.ofNat 8 (bits w 15 8), BitVec.ofNat 8 (bits w 7 0))

/-- Decodes the instruction at the front of a list of bytes and gives the rest; a list too short is rejected by name. -/
def decodeBytes : List Byte → Except DecodeError (Instr × List Byte)
  | hi :: lo :: rest => .ok (decode (joinBytes hi lo), rest)
  | [] | [_] => .error .truncated

/-- The word that the host's numbering (`nbits` bits, the bits above them 0) stands for: an instruction is one word,
so the table's bit `k` is the word's bit `k` (R12, R80). -/
def tableWord (nbits w : Nat) : Word := BitVec.ofNat 16 (if nbits < 16 then w % 2 ^ nbits else w)

/-- The instruction the decoder reads from the table word, laid out as two bytes in memory order (R60). -/
def decodeTableWord (nbits w : Nat) : Option Instr :=
  match decodeBytes [(splitWord (tableWord nbits w)).1, (splitWord (tableWord nbits w)).2] with
  | .ok (i, _) => some i
  | .error _ => none

/-- The layout `op x y n` (R81; formats XYN, XY0). -/
def packXYN (op : Nat) (x y n : Fin 16) : Word := BitVec.ofNat 16 (4096 * op + 256 * x.val + 16 * y.val + n.val)
/-- The layout `op x kk` (R81; formats XKK, X00). -/
def packXKK (op : Nat) (x : Reg) (kk : Byte) : Word := BitVec.ofNat 16 (4096 * op + 256 * x.val + kk.toNat)
/-- The layout `op nnn` (R81; format NNN). -/
def packNNN (op : Nat) (nnn : Addr) : Word := BitVec.ofNat 16 (4096 * op + nnn.toNat)

/-- The word of an instruction, from the encodings of R82 and R85-R90. -/
def encode : Instr → Word
  | .cls => 0x00E0
  | .ret => 0x00EE
  | .sys nnn => packNNN 0x0 nnn
  | .jp nnn => packNNN 0x1 nnn
  | .call nnn => packNNN 0x2 nnn
  | .seImm x kk => packXKK 0x3 x kk
  | .sneImm x kk => packXKK 0x4 x kk
  | .seReg x y => packXYN 0x5 x y 0x0
  | .ldImm x kk => packXKK 0x6 x kk
  | .addImm x kk => packXKK 0x7 x kk
  | .ldReg x y => packXYN 0x8 x y 0x0
  | .orReg x y => packXYN 0x8 x y 0x1
  | .andReg x y => packXYN 0x8 x y 0x2
  | .xorReg x y => packXYN 0x8 x y 0x3
  | .addReg x y => packXYN 0x8 x y 0x4
  | .sub x y => packXYN 0x8 x y 0x5
  | .shr x y => packXYN 0x8 x y 0x6
  | .subn x y => packXYN 0x8 x y 0x7
  | .shl x y => packXYN 0x8 x y 0xE
  | .sneReg x y => packXYN 0x9 x y 0x0
  | .ldI nnn => packNNN 0xA nnn
  | .jpV0 nnn => packNNN 0xB nnn
  | .rnd x kk => packXKK 0xC x kk
  | .drw x y n => packXYN 0xD x y n
  | .skp x => packXKK 0xE x 0x9E
  | .sknp x => packXKK 0xE x 0xA1
  | .ldVxDt x => packXKK 0xF x 0x07
  | .ldVxK x => packXKK 0xF x 0x0A
  | .ldDtVx x => packXKK 0xF x 0x15
  | .ldStVx x => packXKK 0xF x 0x18
  | .addI x => packXKK 0xF x 0x1E
  | .ldF x => packXKK 0xF x 0x29
  | .ldB x => packXKK 0xF x 0x33
  | .storeRegs x => packXKK 0xF x 0x55
  | .loadRegs x => packXKK 0xF x 0x65
  | .unrecognized w => w

/-- The `match` and `mask` that spec/opcode_table.json gives an instruction's row (R96). -/
def tableRow : Instr → Word × Word
  | .cls => (0x00E0, 0xFFFF)
  | .ret => (0x00EE, 0xFFFF)
  | .sys _ => (0x0000, 0xF000)
  | .jp _ => (0x1000, 0xF000)
  | .call _ => (0x2000, 0xF000)
  | .seImm _ _ => (0x3000, 0xF000)
  | .sneImm _ _ => (0x4000, 0xF000)
  | .seReg _ _ => (0x5000, 0xF00F)
  | .ldImm _ _ => (0x6000, 0xF000)
  | .addImm _ _ => (0x7000, 0xF000)
  | .ldReg _ _ => (0x8000, 0xF00F)
  | .orReg _ _ => (0x8001, 0xF00F)
  | .andReg _ _ => (0x8002, 0xF00F)
  | .xorReg _ _ => (0x8003, 0xF00F)
  | .addReg _ _ => (0x8004, 0xF00F)
  | .sub _ _ => (0x8005, 0xF00F)
  | .shr _ _ => (0x8006, 0xF00F)
  | .subn _ _ => (0x8007, 0xF00F)
  | .shl _ _ => (0x800E, 0xF00F)
  | .sneReg _ _ => (0x9000, 0xF00F)
  | .ldI _ => (0xA000, 0xF000)
  | .jpV0 _ => (0xB000, 0xF000)
  | .rnd _ _ => (0xC000, 0xF000)
  | .drw _ _ _ => (0xD000, 0xF000)
  | .skp _ => (0xE09E, 0xF0FF)
  | .sknp _ => (0xE0A1, 0xF0FF)
  | .ldVxDt _ => (0xF007, 0xF0FF)
  | .ldVxK _ => (0xF00A, 0xF0FF)
  | .ldDtVx _ => (0xF015, 0xF0FF)
  | .ldStVx _ => (0xF018, 0xF0FF)
  | .addI _ => (0xF01E, 0xF0FF)
  | .ldF _ => (0xF029, 0xF0FF)
  | .ldB _ => (0xF033, 0xF0FF)
  | .storeRegs _ => (0xF055, 0xF0FF)
  | .loadRegs _ => (0xF065, 0xF0FF)
  | .unrecognized _ => (0x0000, 0x0000)

end Sys2Proof
end

