-- ==== Sys2Proof/Config.lean ====
section
/-! DEFINITION. The parameters of the hardware (spec R8-R10) and what the host presents to the core (R11, R101): the free values of the model. -/

namespace Sys2Proof

/-- What the host presents at the core's input ports for one transaction (R101): plain data, one value per port.
For no port does the spec state a law (R11, R235; D14, D15, D16, D21). -/
structure HostInput where
  /-- How many `tick` pulses fall between the previous transaction and this one (R231: any number, zero or more). -/
  ticks   : Nat
  /-- `KEYDOWN`: entry `v` is `KEYDOWN(v)`, for every 8-bit `v`, the entries at `v ≥ 16` included (R101, R200). -/
  keyDown : Vector Bool 256
  /-- `KEYIN`: the key presented to a pending key-wait, if any (R101, R205). -/
  keyIn   : Option Key
  /-- `RND`: the random byte (R101, R153). -/
  rnd     : Byte
  deriving DecidableEq, Repr, Inhabited

namespace Config

/-- FREE VALUE. What the host presents at the `n`-th transaction that the model has to draw (log entry 3).
It has no body: nothing can be proved of it but what holds of every host (R11, R112). -/
opaque hostInput : Nat → HostInput

/-- FREE VALUE. `STACK_CAPACITY - 1`: the spec leaves the capacity OPEN but for "at least 1" (R9, D10; log entry 4). -/
opaque stackCapacityPred : Nat

/-- `STACK_CAPACITY`, the number of entries of the return-address stack: some number, at least 1 (R9). -/
def stackCapacity : Nat := stackCapacityPred + 1

/-- `PROGRAM_BASE`: where the image is loaded, and `PC` after construction (R8, R67). -/
def programBase : Word := 0x200

/-- `MAX_IMAGE`: the most bytes an image may have, 4096 - 0x200 (R8, R253). -/
def maxImage : Nat := 3584

/-- `FONT`: the 16 glyphs of 5 bytes, at the default value of R45 (R10, D23; log entry 5). -/
def font : List Byte :=
  [0xF0, 0x90, 0x90, 0x90, 0xF0] ++ [0x20, 0x60, 0x20, 0x20, 0x70] ++
  [0xF0, 0x10, 0xF0, 0x80, 0xF0] ++ [0xF0, 0x10, 0xF0, 0x10, 0xF0] ++
  [0x90, 0x90, 0xF0, 0x10, 0x10] ++ [0xF0, 0x80, 0xF0, 0x10, 0xF0] ++
  [0xF0, 0x80, 0xF0, 0x90, 0xF0] ++ [0xF0, 0x10, 0x20, 0x40, 0x40] ++
  [0xF0, 0x90, 0xF0, 0x90, 0xF0] ++ [0xF0, 0x90, 0xF0, 0x10, 0xF0] ++
  [0xF0, 0x90, 0xF0, 0x90, 0x90] ++ [0xE0, 0x90, 0xE0, 0x90, 0xE0] ++
  [0xF0, 0x80, 0x80, 0x80, 0xF0] ++ [0xE0, 0x90, 0x90, 0x90, 0xE0] ++
  [0xF0, 0x80, 0xF0, 0x80, 0xF0] ++ [0xF0, 0x80, 0xF0, 0x80, 0x80]

end Config
end Sys2Proof
end

