-- ==== Sys2Proof/Machine/State.lean ====
section
/-! DEFINITION. The machine state, all of R30 and the model's own three fields for the host's inputs, the reasons a step
can stop, and the state after reset (spec R30, R46-R51, R250). -/

namespace Sys2Proof.Machine

/-- `mem`: the bytes that differ from what an unlisted address reads as, addresses strictly rising (R44; log entry 1). -/
abbrev Memory := List Host.Cell

/-- V0..VF (R32). -/
abbrev RegFile := Vector Byte 16

/-- `disp`: 32 rows, top to bottom, of 64 pixels, left to right; true is on (R43). -/
abbrev Display := Vector (Vector Bool 64) 32

/-- The values of the status field `fault` (R47). -/
inductive RuntimeFault where
  | none
  | stackOverflow
  deriving DecidableEq, Repr

/-- Why `step` answers no next state: the outcomes of R110 in which no instruction transition exists. The first two are
`Halted` (R102, D12; log entry 6), the last is `Hold` (R107, D13; log entry 7). Safe: the model stops where the spec has no
step. -/
inductive Fault where
  /-- Raised by `step`, and by nothing else, in a state with `terminate = true`: the program has ended (R46, R239). Safe. -/
  | terminated
  /-- Raised by `step`, and by nothing else, in a state with `fault = StackOverflow` (R47, R239). Safe. -/
  | stackOverflow
  /-- Raised by `keyWaitTurn`, for `step`, when a core waits for a key and none is presented: the outcome `Hold` of R110,
  in which the step is not enabled. The state stays as it is until the host presents a key (R107, R205; log entry 7). Safe. -/
  | held
  deriving DecidableEq, Repr

/-- What has no meaning. -/
inductive Refusal where
  /-- For an arm of `exec` whose instruction has no meaning yet; no arm raises it now. Safe. -/
  | notModelled (mnemonic : String)
  /-- Raised by `construct`, and by nothing else, on an image of more than 3584 bytes: the spec's refusal
  `ImageTooLarge`, which produces no state (R224, R253). Safe. -/
  | imageTooLarge
  deriving DecidableEq, Repr

structure State where
  /-- Memory (R44). -/
  mem       : Memory
  /-- V0..VF; VF is also the flag register (R32, R33). -/
  v         : RegFile
  /-- `I`, the index register (R38). -/
  i         : Word
  /-- `PC` (R35). -/
  pc        : Word
  /-- `stack`: `STACK_CAPACITY` entries, entry 0 first, the dead ones included (R39). -/
  stack     : List Word
  /-- `SP`, the number of live entries (R39). -/
  sp        : Nat
  /-- The display frame buffer (R43). -/
  disp      : Display
  /-- `DT`, the delay timer (R41). -/
  dt        : Byte
  /-- `ST`, the sound timer (R42). -/
  st        : Byte
  /-- `terminate` (R46). -/
  terminate : Bool
  /-- `fault` (R47). -/
  fault     : RuntimeFault
  /-- `keyWait`: the destination register of a pending `Fx0A` (R48). -/
  keyWait   : Option Reg
  /-- MODEL'S OWN: what the host presents at the ports for the transaction in progress (R101; log entry 3). -/
  ports     : HostInput
  /-- MODEL'S OWN: inputs already settled for the coming transactions, the next one first (log entry 3). -/
  script    : List HostInput
  /-- MODEL'S OWN: how many inputs have been drawn from `Config.hostInput`, a counter (log entry 3). -/
  drawn     : Nat
  deriving DecidableEq, Repr

/-- The state that `RESET` of the empty image leaves: R51's values, all memory as an unlisted address reads (FONT and
zeros). The three fields of the model's own are at the values of log entry 3: no port is sampled before it is set. -/
def State.reset : State where
  mem       := []
  v         := Vector.replicate 16 0
  i         := 0
  pc        := Config.programBase
  stack     := List.replicate Config.stackCapacity 0
  sp        := 0
  disp      := Vector.replicate 32 (Vector.replicate 64 false)
  dt        := 0
  st        := 0
  terminate := false
  fault     := .none
  keyWait   := Option.none
  ports     := ⟨0, Vector.replicate 256 false, Option.none, 0⟩
  script    := []
  drawn     := 0

end Sys2Proof.Machine
end

