-- ==== Sys2Proof/Machine/Operands.lean ====
section
/-! DEFINITION. The operand forms: registers, immediates, the I-relative address, the decimal digits, the host's ports. -/

namespace Sys2Proof.Machine

/-- `V[r]` (R14, R32). -/
def State.readV (s : State) (r : Reg) : Byte := s.v.get r

/-- `V[r] <- b`: no register is hard-wired, each reads back what was written last (R32). -/
def State.writeV (s : State) (r : Reg) (b : Byte) : State := { s with v := s.v.set r.val b }

/-- VF, the flag register, `V[15]` (R16, R33). -/
def regF : Reg := 15

/-- `zext_16(nnn)` (R84). -/
def zext16 (nnn : Addr) : Word := BitVec.ofNat 16 nnn.toNat

/-- `(base + k) mod 4096`: the effective address of every data access (R64, R170) and of both bytes of a fetch (R60, R63). -/
def effAddr (base : Word) (k : Nat) : Addr := BitVec.ofNat 12 (base.toNat + k)

/-- `(pc + 2) mod 4096`: the fetch advance and the skip advance (R63, R103, R120). -/
def advance (pc : Word) : Word := BitVec.ofNat 16 ((pc.toNat + 2) % 4096)

/-- The target of `Bnnn`: `(zext_16(V0) + zext_16(nnn)) mod 4096` (R129). -/
def jumpV0Target (v0 : Byte) (nnn : Addr) : Word := BitVec.ofNat 16 ((v0.toNat + nnn.toNat) % 4096)

/-- The value `Fx1E` gives `I`: `(I + zext_16(Vx)) & 0xFFF` (R172). -/
def indexSum (i : Word) (b : Byte) : Word := BitVec.ofNat 16 ((i.toNat + b.toNat) % 4096)

/-- The value `Fx29` gives `I`: `5 * zext_16(Vx)`, the digit not masked (R173). -/
def glyphAddr (b : Byte) : Word := BitVec.ofNat 16 (5 * b.toNat)

/-- The three decimal digits of a byte, hundreds, tens, ones (R174). -/
def digits (b : Byte) : List Byte :=
  [BitVec.ofNat 8 (b.toNat / 100), BitVec.ofNat 8 (b.toNat / 10 % 10), BitVec.ofNat 8 (b.toNat % 10)]

/-- `V[0], V[1], …, V[x]`, in this order: the block of `Fx55` (R175). -/
def State.regsTo (s : State) (x : Reg) : List Byte := (List.range (x.val + 1)).map fun k => s.readV (Fin.ofNat 16 k)

/-- `V[k] <- b` for each byte in turn, `k` counting up: the block of `Fx65` (R176). -/
def RegFile.load : RegFile → Nat → List Byte → RegFile
  | v, _, [] => v
  | v, k, b :: bs => RegFile.load (v.set (Fin.ofNat 16 k).val b) (k + 1) bs

/-- `KEYDOWN(v)` as the host presents it for this transaction, for every 8-bit `v` (R101, R200). -/
def State.keyDown (s : State) (b : Byte) : Bool := s.ports.keyDown.get b.toFin

/-- The byte that a key's number is when it goes to a register (R205). -/
def keyByte (k : Key) : Byte := BitVec.ofNat 8 k.val

end Sys2Proof.Machine
end

