-- ==== Sys2Proof/Machine/Flags.lean ====
section
/-! DEFINITION. The flag computations: VF is the only flag, and six instructions write it as one (spec R49, R140). -/

namespace Sys2Proof.Machine

/-- The byte VF takes: 1 when the condition holds, else 0 (R49). -/
def flagByte (b : Bool) : Byte := if b then 1 else 0

/-- `8xy4`: the unsigned sum passes 255 (R147). -/
def carryOut (a b : Byte) : Bool := decide (a.toNat + b.toNat > 255)

/-- `8xy5` and, the operands exchanged, `8xy7`: the minuend is STRICTLY greater (R148, R150; N6). -/
def notBorrow (a b : Byte) : Bool := decide (a.toNat > b.toNat)

/-- `8xy6`: the old bit 0 (R149). -/
def lowBitOut (a : Byte) : Bool := a.toNat % 2 == 1

/-- `8xyE`: the old bit 7 (R151). -/
def highBitOut (a : Byte) : Bool := a.toNat / 128 == 1

/-- The order of every flag-writing instruction of the ALU: the result to Vx first, then the flag to VF, so that with
x = F the flag stays (R140, D4). Both are computed by the caller from the latched operands. -/
def State.writeResultFlag (s : State) (x : Reg) (result : Byte) (flag : Bool) : State :=
  (s.writeV x result).writeV regF (flagByte flag)

end Sys2Proof.Machine
end

