-- ==== Sys2Proof/Machine/Ops.lean ====
section
/-! DEFINITION. The named operations over memory, the program counter, the stack, the status fields, the timers and the
host's ports; taking the one runtime fault; the fetch; the loading of an image. -/

namespace Sys2Proof.Machine

/-! ### Memory (R44, R61, R64, R66) -/

/-- What an address with no entry reads as, its construction value: FONT at 0x000-0x04F and 0 elsewhere (R51, R66, R251). -/
def Memory.unlisted (a : Nat) : Byte := Config.font.getD a 0

/-- The canonical form: addresses below 4096, strictly rising, no entry that an unlisted address would read as. -/
def Memory.wf : Memory → Bool
  | [] => true
  | (a, b) :: rest => decide (a < 4096) && b != Memory.unlisted a && rest.all (fun c => decide (a < c.1)) && Memory.wf rest

/-- The byte at an address: the last value written there, or its construction value (R66). -/
def Memory.get : Memory → Nat → Byte
  | [], a => Memory.unlisted a
  | (c, b) :: rest, a => if a = c then b else Memory.get rest a

/-- Puts a byte at an address and keeps the canonical form: the value an unlisted address reads as takes the entry out. -/
def Memory.put : Memory → Nat → Byte → Memory
  | [], a, b => if b = Memory.unlisted a then [] else [(a, b)]
  | (c, d) :: rest, a, b =>
    if a < c then (if b = Memory.unlisted a then (c, d) :: rest else (a, b) :: (c, d) :: rest)
    else if a = c then (if b = Memory.unlisted a then rest else (a, b) :: rest)
    else (c, d) :: Memory.put rest a b

/-- Single-byte writes at `base + k`, `base + k + 1`, …, each address mod 4096, in this order (R61, R64, R72). -/
def Memory.putBlock : Memory → Word → Nat → List Byte → Memory
  | m, _, _, [] => m
  | m, base, k, b :: bs => Memory.putBlock (m.put (effAddr base k).toNat b) base (k + 1) bs

/-- `MemRead(a, 1)` (R15, R61). -/
def State.readByte (s : State) (a : Addr) : Byte := s.mem.get a.toNat

/-- `MemWrite(a, 1, b)` (R15, R61); every address is writable (R68). -/
def State.writeByte (s : State) (a : Addr) (b : Byte) : State := { s with mem := s.mem.put a.toNat b }

/-- The `n` bytes from `base`, each address mod 4096 (R61, R64). -/
def State.readBlock (s : State) (base : Word) (n : Nat) : List Byte :=
  (List.range n).map fun k => s.readByte (effAddr base k)

/-- The bytes written from `base` on, each address mod 4096 (R61, R64). -/
def State.writeBlock (s : State) (base : Word) (bs : List Byte) : State :=
  { s with mem := s.mem.putBlock base 0 bs }

/-- `V[0], V[1], …` loaded with the bytes (R176). -/
def State.loadRegBlock (s : State) (bs : List Byte) : State := { s with v := RegFile.load s.v 0 bs }

/-! ### The program counter and the index register -/

/-- `PC <- target` (R14). -/
def State.setPc (s : State) (target : Word) : State := { s with pc := target }

/-- A skip, when the condition holds: `PC <- (PC + 2) mod 4096`, past exactly one word (R120). -/
def State.skipIf (s : State) (cond : Bool) : State := s.setPc (if cond then advance s.pc else s.pc)

/-- `I <- w` (R38). -/
def State.setI (s : State) (w : Word) : State := { s with i := w }

/-! ### The timers (R41, R42, R230) -/

/-- `DT <- b` (R41). -/
def State.setDt (s : State) (b : Byte) : State := { s with dt := b }

/-- `ST <- b` (R42). -/
def State.setSt (s : State) (b : Byte) : State := { s with st := b }

/-- One tick's action on one timer: one less while non-zero, floor at 0 (R230). -/
def timerTick (t : Byte) : Byte := if t = 0 then 0 else t - 1

/-- The action of `n` ticks on one timer. -/
def timerTicks : Nat → Byte → Byte
  | 0, t => t
  | n + 1, t => timerTicks n (timerTick t)

/-- `tick`, one pulse of the timer driver: both timers, and nothing else; also in a halted core (R230, R231). -/
def State.tick (s : State) : State := { s with dt := timerTick s.dt, st := timerTick s.st }

/-- `n` ticks, one after another (R231). -/
def State.ticks (s : State) (n : Nat) : State := { s with dt := timerTicks n s.dt, st := timerTicks n s.st }

/-! ### The return-address stack (R39, R40) -/

/-- `STACK_CAPACITY`, read off the stack itself: the number of entries it has (R39; log entry 4). -/
def State.stackCapacity (s : State) : Nat := s.stack.length

/-- TAKING THE ONE RUNTIME FAULT, `raise StackOverflow`: the status field records it, and nothing else changes. `PC` stays
past the faulting word; there is no vector, no saved register and no mode change, and the core halts (R221, R222). There
is no return from it: only a new construction leaves it (R225). -/
def State.raiseStackOverflow (s : State) : State := { s with fault := .stackOverflow }

/-- `Push(r)` and then `PC <- target`; a full stack raises StackOverflow and changes no stack state (R40, R124). -/
def State.pushAndGo (s : State) (target : Word) : State :=
  if s.sp < s.stackCapacity then
    { s with stack := s.stack.set s.sp s.pc, sp := s.sp + 1, pc := target }
  else s.raiseStackOverflow

/-- `halt_terminate()`: `terminate <- true` (R15, R46). -/
def State.haltTerminate (s : State) : State := { s with terminate := true }

/-- `Pop()` into `PC`; the popped entry keeps its value as a dead entry. On an empty stack, `terminate` (R39, R40, R122; log entry 8). -/
def State.popAndGo (s : State) : State :=
  if s.sp = 0 then s.haltTerminate
  else { s with sp := s.sp - 1, pc := s.stack.getD (s.sp - 1) 0 }

/-! ### The key-wait (R48, R107, R205) -/

/-- `keyWait <- w` (R48). -/
def State.setKeyWait (s : State) (w : Option Reg) : State := { s with keyWait := w }

/-- The completion of the pending `Fx0A`: the key to `V[x]`, the wait over, `PC` unchanged (R205). -/
def State.completeKeyWait (s : State) (x : Reg) (k : Key) : State := (s.writeV x (keyByte k)).setKeyWait none

/-- The transaction of a core that waits for register `x`: with a key at the port the wait completes; with none it HOLDS,
which is no transition, and the state stays as it was (R107, R110, R205; log entry 7). -/
def State.keyWaitTurn (s : State) (x : Reg) : Host.Outcome State Fault Refusal :=
  match s.ports.keyIn with
  | some k => .next (s.completeKeyWait x k)
  | none => .fault .held

/-! ### The host's inputs (R101, R231; log entry 3) -/

/-- What the host presents for the next transaction: the next input already settled, else one drawn freely. -/
def State.nextInput (s : State) : HostInput :=
  match s.script with
  | [] => Config.hostInput s.drawn
  | h :: _ => h

/-- The start of a transaction: the ports take the host's next input. -/
def State.samplePorts (s : State) : State :=
  { s with ports := s.nextInput, script := s.script.tail, drawn := if s.script = [] then s.drawn + 1 else s.drawn }

/-- What happens between two transactions and at the start of the second: the ports are sampled, and the ticks that fell
in between have acted on the timers (R231: never inside a step; log entry 11). -/
def State.hostTurn (s : State) : State := s.samplePorts.ticks s.nextInput.ticks

/-- The host's own act: what it presents for the next transaction becomes `h`, whatever stood there. It is what lifts a
hold, and no step of the core (R107, R232; log entry 7). -/
def State.present (s : State) (h : HostInput) : State := { s with script := h :: s.script.tail }

/-! ### Outputs (R101) -/

/-- `sound`: `ST ≠ 0` (R42, R233). -/
def State.sound (s : State) : Bool := s.st != 0

/-- `needKey`: `keyWait ≠ none` (R48, R101). -/
def State.needKey (s : State) : Bool := s.keyWait.isSome

/-- The numeric code of the output `fault` (R221, D25). -/
def RuntimeFault.code : RuntimeFault → Nat
  | .none => 0
  | .stackOverflow => 1

/-! ### Fetch (R60, R63, R103) -/

/-- `Fetch16(PC)`: the byte at `PC` is the high byte, the byte at `(PC + 1) mod 4096` the low one (R15, R60, R63). -/
def State.fetchWord (s : State) : Word := joinBytes (s.readByte (effAddr s.pc 0)) (s.readByte (effAddr s.pc 1))

/-- The fetch advance, before the handler runs (R103). -/
def State.advancePc (s : State) : State := s.setPc (advance s.pc)

/-- Whether the core is halted, and by what: no instruction step leaves such a state (R19, R102). -/
def State.haltedBy (s : State) : Option Fault :=
  if s.terminate then some .terminated
  else match s.fault with
    | .none => none
    | .stackOverflow => some .stackOverflow

/-- The state with a word placed where the next step fetches, and with the core running and waiting for no key, so that
the next step does fetch. -/
def State.placeWord (s : State) (w : Word) : State :=
  { (s.writeByte (effAddr s.pc 0) (splitWord w).1).writeByte (effAddr s.pc 1) (splitWord w).2 with
      terminate := false, fault := .none, keyWait := none }

/-! ### Construction (R250-R254) -/

/-- `RESET(image)`: font first, then the image from 0x200 on, every other field at its reset value; an image of more than
3584 bytes is refused and produces no state (R250-R253). -/
def construct (image : List Byte) : Host.Outcome State Fault Refusal :=
  if image.length > Config.maxImage then .refused .imageTooLarge
  else .next (State.reset.writeBlock Config.programBase image)

end Sys2Proof.Machine
end

