-- ==== Sys2Proof/Machine/Alu.lean ====
section
/-! DEFINITION. The meanings of 42_alu.md (spec R141-R153): 8-bit unsigned arithmetic mod 256 (R140, R154). -/

namespace Sys2Proof.Machine

/-- `6xkk` LD Vx, kk (R141). -/
def execLdImm (x : Reg) (kk : Byte) (s : State) : Host.Outcome State Fault Refusal := .next (s.writeV x kk)

/-- `7xkk` ADD Vx, kk: mod 256, no flag (R142). -/
def execAddImm (x : Reg) (kk : Byte) (s : State) : Host.Outcome State Fault Refusal :=
  .next (s.writeV x (s.readV x + kk))

/-- `8xy0` LD Vx, Vy (R143). -/
def execLdReg (x y : Reg) (s : State) : Host.Outcome State Fault Refusal := .next (s.writeV x (s.readV y))

/-- `8xy1` OR Vx, Vy: no flag (R144, D5). -/
def execOrReg (x y : Reg) (s : State) : Host.Outcome State Fault Refusal :=
  .next (s.writeV x (s.readV x ||| s.readV y))

/-- `8xy2` AND Vx, Vy: no flag (R145, D5). -/
def execAndReg (x y : Reg) (s : State) : Host.Outcome State Fault Refusal :=
  .next (s.writeV x (s.readV x &&& s.readV y))

/-- `8xy3` XOR Vx, Vy: no flag (R146, D5). -/
def execXorReg (x y : Reg) (s : State) : Host.Outcome State Fault Refusal :=
  .next (s.writeV x (s.readV x ^^^ s.readV y))

/-- `8xy4` ADD Vx, Vy: VF = carry (R147). -/
def execAddReg (x y : Reg) (s : State) : Host.Outcome State Fault Refusal :=
  .next (s.writeResultFlag x (s.readV x + s.readV y) (carryOut (s.readV x) (s.readV y)))

/-- `8xy5` SUB Vx, Vy: VF = (Vx > Vy), strictly (R148). -/
def execSub (x y : Reg) (s : State) : Host.Outcome State Fault Refusal :=
  .next (s.writeResultFlag x (s.readV x - s.readV y) (notBorrow (s.readV x) (s.readV y)))

/-- `8xy6` SHR Vx: `y` is ignored (R149, D3). -/
def execShr (x _y : Reg) (s : State) : Host.Outcome State Fault Refusal :=
  .next (s.writeResultFlag x (s.readV x >>> 1) (lowBitOut (s.readV x)))

/-- `8xy7` SUBN Vx, Vy: VF = (Vy > Vx), strictly (R150). -/
def execSubn (x y : Reg) (s : State) : Host.Outcome State Fault Refusal :=
  .next (s.writeResultFlag x (s.readV y - s.readV x) (notBorrow (s.readV y) (s.readV x)))

/-- `8xyE` SHL Vx: `y` is ignored (R151, D3). -/
def execShl (x _y : Reg) (s : State) : Host.Outcome State Fault Refusal :=
  .next (s.writeResultFlag x (s.readV x <<< 1) (highBitOut (s.readV x)))

/-- `Cxkk` RND Vx, kk: the random byte the host presents for this step, masked (R153). -/
def execRnd (x : Reg) (kk : Byte) (s : State) : Host.Outcome State Fault Refusal :=
  .next (s.writeV x (s.ports.rnd &&& kk))

end Sys2Proof.Machine
end

