-- ==== Sys2Proof/Machine/Flow.lean ====
section
/-! DEFINITION. The meanings of 41_flow.md (spec R121-R129) and of the unrecognized word (R111). Each runs after the fetch
advance, so `s.pc` is the address of the word after the instruction (R120). -/

namespace Sys2Proof.Machine

/-- `0nnn` SYS: nothing; the fetch advance is the only effect, `nnn` ignored (R121). -/
def execSys (_nnn : Addr) (s : State) : Host.Outcome State Fault Refusal := .next s

/-- `00EE` RET (R122). -/
def execRet (s : State) : Host.Outcome State Fault Refusal := .next s.popAndGo

/-- `1nnn` JP (R123). -/
def execJp (nnn : Addr) (s : State) : Host.Outcome State Fault Refusal := .next (s.setPc (zext16 nnn))

/-- `2nnn` CALL: pushes the address after it, or raises StackOverflow (R124, R222: a next state, then halted). -/
def execCall (nnn : Addr) (s : State) : Host.Outcome State Fault Refusal := .next (s.pushAndGo (zext16 nnn))

/-- `3xkk` SE Vx, kk (R125). -/
def execSeImm (x : Reg) (kk : Byte) (s : State) : Host.Outcome State Fault Refusal :=
  .next (s.skipIf (s.readV x == kk))

/-- `4xkk` SNE Vx, kk (R126). -/
def execSneImm (x : Reg) (kk : Byte) (s : State) : Host.Outcome State Fault Refusal :=
  .next (s.skipIf (s.readV x != kk))

/-- `5xy0` SE Vx, Vy (R127). -/
def execSeReg (x y : Reg) (s : State) : Host.Outcome State Fault Refusal :=
  .next (s.skipIf (s.readV x == s.readV y))

/-- `9xy0` SNE Vx, Vy (R128). -/
def execSneReg (x y : Reg) (s : State) : Host.Outcome State Fault Refusal :=
  .next (s.skipIf (s.readV x != s.readV y))

/-- `Bnnn` JP V0, nnn (R129). -/
def execJpV0 (nnn : Addr) (s : State) : Host.Outcome State Fault Refusal :=
  .next (s.setPc (jumpV0Target (s.readV 0) nnn))

/-- An unrecognized word: a no-op, not a fault (R90, R111, R223). -/
def execUnrecognized (_w : Word) (s : State) : Host.Outcome State Fault Refusal := .next s

end Sys2Proof.Machine
end

