-- ==== Sys2Proof/Machine/IndexMemory.lean ====
section
/-! DEFINITION. The meanings of 43_index_memory.md (spec R171-R176): none writes VF as a flag, and none of the transfers
changes `I` (R170). -/

namespace Sys2Proof.Machine

/-- `Annn` LD I, nnn (R171). -/
def execLdI (nnn : Addr) (s : State) : Host.Outcome State Fault Refusal := .next (s.setI (zext16 nnn))

/-- `Fx1E` ADD I, Vx: masked to 12 bits, no flag (R172). -/
def execAddI (x : Reg) (s : State) : Host.Outcome State Fault Refusal := .next (s.setI (indexSum s.i (s.readV x)))

/-- `Fx29` LD F, Vx: the address of glyph Vx, Vx not masked (R173). -/
def execLdF (x : Reg) (s : State) : Host.Outcome State Fault Refusal := .next (s.setI (glyphAddr (s.readV x)))

/-- `Fx33` LD B, Vx: the three decimal digits at `I`, `I + 1`, `I + 2` (R174). -/
def execLdB (x : Reg) (s : State) : Host.Outcome State Fault Refusal := .next (s.writeBlock s.i (digits (s.readV x)))

/-- `Fx55` LD [I], Vx: V0..Vx to memory from `I` on (R175). -/
def execStoreRegs (x : Reg) (s : State) : Host.Outcome State Fault Refusal := .next (s.writeBlock s.i (s.regsTo x))

/-- `Fx65` LD Vx, [I]: V0..Vx from memory from `I` on (R176). -/
def execLoadRegs (x : Reg) (s : State) : Host.Outcome State Fault Refusal :=
  .next (s.loadRegBlock (s.readBlock s.i (x.val + 1)))

end Sys2Proof.Machine
end

