-- ==== Sys2Proof/Machine/Pixels.lean ====
section
/-! DEFINITION. The clear and draw datapaths of the display frame buffer (spec R43, R190-R192). -/

namespace Sys2Proof.Machine

/-- `disp[r][c]` (R14, R43). -/
def Display.pixel (d : Display) (r : Fin 32) (c : Fin 64) : Bool := (d.get r).get c

/-- `disp[r][c] <- not disp[r][c]`. -/
def Display.flip (d : Display) (r : Fin 32) (c : Fin 64) : Display :=
  d.set r.val ((d.get r).set c.val (!d.pixel r c))

/-- One set sprite bit: a collision if the pixel was on, and the pixel flipped. The pair is (`disp`, `hit`) (R191). -/
def plot (acc : Display × Bool) (px : Fin 64) (py : Fin 32) : Display × Bool :=
  (acc.1.flip py px, acc.2 || acc.1.pixel py px)

/-- One sprite row: column offset `c` is bit `7 - c`, the most significant bit leftmost (R192); the column wraps mod 64,
the row mod 32 (R191). A zero bit does nothing. -/
def drawRow (cx row : Nat) (b : Byte) (acc : Display × Bool) : Display × Bool :=
  (List.range 8).foldl
    (fun acc c => if b.getLsbD (7 - c) then plot acc (Fin.ofNat 64 (cx + c)) (Fin.ofNat 32 row) else acc) acc

/-- The sprite rows in turn, the first at row `row` (R191). -/
def drawRows (cx : Nat) : Nat → List Byte → Display × Bool → Display × Bool
  | _, [], acc => acc
  | row, b :: bs, acc => drawRows cx (row + 1) bs (drawRow cx row b acc)

/-- A pixel of the machine's display. -/
def State.pixel (s : State) (r : Fin 32) (c : Fin 64) : Bool := s.disp.pixel r c

/-- Every pixel off (R190). -/
def State.clearDisplay (s : State) : State := { s with disp := Vector.replicate 32 (Vector.replicate 64 false) }

/-- The draw datapath over the latched column, row and sprite bytes: the display, then VF from the collision (R191). -/
def State.drawSprite (s : State) (cx cy : Nat) (rows : List Byte) : State :=
  ({ s with disp := (drawRows cx cy rows (s.disp, false)).1 }).writeV regF
    (flagByte (drawRows cx cy rows (s.disp, false)).2)

end Sys2Proof.Machine
end

