-- ==== Sys2Proof/Machine/Screen.lean ====
section
/-! DEFINITION. The meanings of 44_display.md (spec R190, R191). -/

namespace Sys2Proof.Machine

/-- `00E0` CLS: every pixel off, no flag (R190). -/
def execCls (s : State) : Host.Outcome State Fault Refusal := .next s.clearDisplay

/-- `Dxyn` DRW Vx, Vy, n: column Vx, row Vy, `n` sprite bytes from `I` on, all latched before any write (R191). -/
def execDrw (x y : Reg) (n : Fin 16) (s : State) : Host.Outcome State Fault Refusal :=
  .next (s.drawSprite (s.readV x).toNat (s.readV y).toNat (s.readBlock s.i n.val))

end Sys2Proof.Machine
end

