-- ==== Sys2Proof/Machine/TimersKeys.lean ====
section
/-! DEFINITION. The meanings of 45_timers_keys.md (spec R201-R204, R206, R207). -/

namespace Sys2Proof.Machine

/-- `Ex9E` SKP Vx: skips when the host says the key is pressed, for every 8-bit key number (R201). -/
def execSkp (x : Reg) (s : State) : Host.Outcome State Fault Refusal := .next (s.skipIf (s.keyDown (s.readV x)))

/-- `ExA1` SKNP Vx: skips when the host says it is not (R202). -/
def execSknp (x : Reg) (s : State) : Host.Outcome State Fault Refusal := .next (s.skipIf (!s.keyDown (s.readV x)))

/-- `Fx07` LD Vx, DT (R203). -/
def execLdVxDt (x : Reg) (s : State) : Host.Outcome State Fault Refusal := .next (s.writeV x s.dt)

/-- `Fx0A` LD Vx, K: the core starts to wait; Vx is written by the step that gets the key (R204, R205). -/
def execLdVxK (x : Reg) (s : State) : Host.Outcome State Fault Refusal := .next (s.setKeyWait (some x))

/-- `Fx15` LD DT, Vx (R206). -/
def execLdDtVx (x : Reg) (s : State) : Host.Outcome State Fault Refusal := .next (s.setDt (s.readV x))

/-- `Fx18` LD ST, Vx (R207). -/
def execLdStVx (x : Reg) (s : State) : Host.Outcome State Fault Refusal := .next (s.setSt (s.readV x))

end Sys2Proof.Machine
end

