-- ==== Sys2Proof/Machine/Step.lean ====
section
/-! DEFINITION. One transaction of the core (spec R100-R110), and the placing of a word where the next one fetches. -/

namespace Sys2Proof.Machine

/-- R110. A halted core has no step. Otherwise the host's turn comes first (the ports, the ticks since the last
transaction: R101, R231); then a core that waits for a key takes it or holds, which is no transition (R107), and any other
fetches, advances `PC` by 2, decodes and runs exactly one handler (R103, R108). -/
def step (s : State) : Host.Outcome State Fault Refusal :=
  match s.haltedBy with
  | some f => .fault f
  | none =>
    match s.keyWait with
    | some x => s.hostTurn.keyWaitTurn x
    | none => exec (decode s.fetchWord) s.hostTurn.advancePc

/-- The state with the table word placed at `PC`, the core running and waiting for no key (log entry 9). -/
def State.withFetchWord (s : State) (nbits w : Nat) : State := s.placeWord (tableWord nbits w)

end Sys2Proof.Machine
end

