-- ==== Sys2Proof/Safety.lean ====
section
/-! DEFINITION. The terms the statements use: the invariant of the reachable states, what a step may change, which
registers an instruction reads and writes (R34), the closed form of a draw, and several instructions in a row. -/

namespace Sys2Proof.Machine

/-- What holds of every state a run reaches. -/
structure State.Inv (s : State) : Prop where
  /-- Memory is in its canonical form, so every entry lies in the 4096-byte array (R44). -/
  mem_wf : s.mem.wf = true
  /-- `PC` < 0x1000 (R36). -/
  pc_lt : s.pc.toNat < 4096
  /-- `I` < 0x1000 (R38). -/
  i_lt : s.i.toNat < 4096
  /-- The stack has `STACK_CAPACITY` entries (R39). -/
  stack_length : s.stack.length = Config.stackCapacity
  /-- "Depth invariant: 0 ≤ stackPointer ≤ capacity" (R39). -/
  sp_le : s.sp ≤ Config.stackCapacity
  /-- Every stack entry holds a 12-bit address (R36). -/
  entry_lt : ∀ e ∈ s.stack, e.toNat < 4096
  /-- A run never both ends normally and faults (R227). -/
  not_both : s.terminate = true → s.fault = .none
  /-- A pending key-wait is a sub-condition of running (R228). -/
  wait_running : s.keyWait ≠ none → s.terminate = false ∧ s.fault = .none

/-- The parts of the state that a statement can name as changed; `host` is the model's own three fields. -/
inductive Part where
  | reg (r : Reg)
  | index | pc | memory | stack | sp | display | delayTimer | soundTimer | terminate | fault | keyWait | host
  deriving DecidableEq, Repr

/-- FRAME. From `s` to `t` everything but the named parts is as it was: each register, `I`, `PC`, EVERY byte of memory,
every stack entry, `SP`, every pixel, both timers, the three status fields and the host's inputs. -/
structure UnchangedBut (parts : List Part) (s t : State) : Prop where
  regs : ∀ r, .reg r ∉ parts → t.readV r = s.readV r
  index : .index ∉ parts → t.i = s.i
  pc : .pc ∉ parts → t.pc = s.pc
  memory : .memory ∉ parts → ∀ a, t.readByte a = s.readByte a
  stack : .stack ∉ parts → t.stack = s.stack
  sp : .sp ∉ parts → t.sp = s.sp
  display : .display ∉ parts → ∀ r c, t.pixel r c = s.pixel r c
  delayTimer : .delayTimer ∉ parts → t.dt = s.dt
  soundTimer : .soundTimer ∉ parts → t.st = s.st
  terminate : .terminate ∉ parts → t.terminate = s.terminate
  fault : .fault ∉ parts → t.fault = s.fault
  keyWait : .keyWait ∉ parts → t.keyWait = s.keyWait
  host : .host ∉ parts → t.ports = s.ports ∧ t.script = s.script ∧ t.drawn = s.drawn

/-- `V0..Vx`, the registers of a block transfer. -/
def regsUpTo (x : Reg) : List Reg := (List.finRange 16).filter fun r => decide (r ≤ x)

/-- The column "writes" of R34, for the step that executes the word: `Fx0A` writes its register only at completion. -/
def registersWritten : Instr → List Reg
  | .ldImm x _ | .addImm x _ | .ldReg x _ | .orReg x _ | .andReg x _ | .xorReg x _ | .rnd x _ | .ldVxDt x => [x]
  | .addReg x _ | .sub x _ | .subn x _ | .shr x _ | .shl x _ => [x, regF]
  | .drw _ _ _ => [regF]
  | .loadRegs x => regsUpTo x
  | .cls | .ret | .sys _ | .jp _ | .call _ | .seImm _ _ | .sneImm _ _ | .seReg _ _ | .sneReg _ _ | .ldI _ | .jpV0 _
  | .skp _ | .sknp _ | .ldVxK _ | .ldDtVx _ | .ldStVx _ | .addI _ | .ldF _ | .ldB _ | .storeRegs _
  | .unrecognized _ => []

/-- The column "reads" of R34. -/
def registersRead : Instr → List Reg
  | .seImm x _ | .sneImm x _ | .addImm x _ | .shr x _ | .shl x _ | .skp x | .sknp x | .ldDtVx x | .ldStVx x | .addI x
  | .ldF x | .ldB x => [x]
  | .seReg x y | .sneReg x y | .orReg x y | .andReg x y | .xorReg x y | .addReg x y | .sub x y | .subn x y
  | .drw x y _ => [x, y]
  | .ldReg _ y => [y]
  | .jpV0 _ => [0]
  | .storeRegs x => regsUpTo x
  | .cls | .ret | .sys _ | .jp _ | .call _ | .ldImm _ _ | .ldI _ | .rnd _ _ | .ldVxDt _ | .ldVxK _ | .loadRegs _
  | .unrecognized _ => []

/-- How far below the sprite's first row the display row `r` lies, going down and around (R191). -/
def spriteRow (s : State) (y : Reg) (r : Fin 32) : Nat := (r.val + 32 - (s.readV y).toNat % 32) % 32

/-- How far right of the sprite's first column the display column `c` lies, going right and around (R191). -/
def spriteColumn (s : State) (x : Reg) (c : Fin 64) : Nat := (c.val + 64 - (s.readV x).toNat % 64) % 64

/-- Whether the sprite of `Dxyn` has a set bit at pixel (`c`, `r`): it is one of the `n` rows and 8 columns, and bit
`7 - column offset` of that row's byte is 1 (R191, R192). -/
def spriteCovers (s : State) (x y : Reg) (n : Fin 16) (r : Fin 32) (c : Fin 64) : Bool :=
  decide (spriteRow s y r < n.val) && decide (spriteColumn s x c < 8) &&
    (s.readByte (effAddr s.i (spriteRow s y r))).getLsbD (7 - spriteColumn s x c)

/-- Handlers one after another, each after the fetch advance of its own word (R103), whatever memory holds and without
ticks: the fetch and the host's turn are left to `step`. -/
def runHandlers : List Instr → State → Host.Outcome State Fault Refusal
  | [], s => .next s
  | i :: is, s =>
    match exec i s.advancePc with
    | .next t => runHandlers is t
    | .fault f => .fault f
    | .refused r => .refused r

end Sys2Proof.Machine
end

