-- ==== Sys2Proof/Certificates/Slice0/Obligations.lean ====
section
/-! DEFINITION. The statements for the provers. Each says of which rule of the spec it speaks; `exec i s` is the handler run
on the state after the fetch advance, so `s.pc` is already the address of the word after the instruction (R103, R120). -/

open Sys2Proof Sys2Proof.Machine Host

/-! ### Encoding -/

/-- Words that the spec's own text spells out, one or more of each family, with the instruction each stands for. -/
def Obligations.SpecWordsDecode : Prop :=
  decode 0x00E0 = .cls ∧ decode 0x00EE = .ret ∧ decode 0x0FEE = .sys 0xFEE ∧ decode 0x1204 = .jp 0x204 ∧
  decode 0x220C = .call 0x20C ∧ decode 0x4205 = .sneImm 2 0x05 ∧ decode 0x5340 = .seReg 3 4 ∧
  decode 0x5121 = .unrecognized 0x5121 ∧ decode 0x71FF = .addImm 1 0xFF ∧ decode 0x8014 = .addReg 0 1 ∧
  decode 0x8306 = .shr 3 0 ∧ decode 0x840E = .shl 4 0 ∧ decode 0x9340 = .sneReg 3 4 ∧ decode 0xA210 = .ldI 0x210 ∧
  decode 0xB300 = .jpV0 0x300 ∧ decode 0xC50F = .rnd 5 0x0F ∧ decode 0xDBC2 = .drw 0xB 0xC 2 ∧
  decode 0xE2A1 = .sknp 2 ∧ decode 0xF20A = .ldVxK 2 ∧ decode 0xF033 = .ldB 0 ∧ decode 0xF265 = .loadRegs 2

/-- R86: family 0 by the whole word: 00E0 and 00EE exactly, every other word of the family SYS with its `nnn`, a no-op. -/
def Obligations.FamilyZeroDecodesByWholeWord : Prop :=
  decode 0x00E0 = .cls ∧ decode 0x00EE = .ret ∧
  ∀ nnn : Addr, nnn ≠ 0x0E0 → nnn ≠ 0x0EE →
    decode (BitVec.ofNat 16 nnn.toNat) = .sys nnn ∧ ∀ s, exec (.sys nnn) s = .next s

/-- R105: the first level of dispatch, for every value of every field, families 5 and 9 with `n ≠ 0` included. -/
def Obligations.FirstLevelDecodesByOp : Prop :=
  ∀ (x y n : Fin 16) (kk : Byte) (nnn : Addr),
    decode (BitVec.ofNat 16 (0x1000 + nnn.toNat)) = .jp nnn ∧
    decode (BitVec.ofNat 16 (0x2000 + nnn.toNat)) = .call nnn ∧
    decode (BitVec.ofNat 16 (0x3000 + 0x100 * x.val + kk.toNat)) = .seImm x kk ∧
    decode (BitVec.ofNat 16 (0x4000 + 0x100 * x.val + kk.toNat)) = .sneImm x kk ∧
    decode (BitVec.ofNat 16 (0x5000 + 0x100 * x.val + 0x10 * y.val)) = .seReg x y ∧
    decode (BitVec.ofNat 16 (0x6000 + 0x100 * x.val + kk.toNat)) = .ldImm x kk ∧
    decode (BitVec.ofNat 16 (0x7000 + 0x100 * x.val + kk.toNat)) = .addImm x kk ∧
    decode (BitVec.ofNat 16 (0x9000 + 0x100 * x.val + 0x10 * y.val)) = .sneReg x y ∧
    decode (BitVec.ofNat 16 (0xA000 + nnn.toNat)) = .ldI nnn ∧
    decode (BitVec.ofNat 16 (0xB000 + nnn.toNat)) = .jpV0 nnn ∧
    decode (BitVec.ofNat 16 (0xC000 + 0x100 * x.val + kk.toNat)) = .rnd x kk ∧
    decode (BitVec.ofNat 16 (0xD000 + 0x100 * x.val + 0x10 * y.val + n.val)) = .drw x y n ∧
    (n ≠ 0 →
      (∃ w, decode (BitVec.ofNat 16 (0x5000 + 0x100 * x.val + 0x10 * y.val + n.val)) = .unrecognized w ∧
        ∀ s, exec (.unrecognized w) s = .next s) ∧
      ∃ w, decode (BitVec.ofNat 16 (0x9000 + 0x100 * x.val + 0x10 * y.val + n.val)) = .unrecognized w ∧
        ∀ s, exec (.unrecognized w) s = .next s)

/-- R87: family 8 by `n`, the seven selectors that name nothing included. -/
def Obligations.FamilyEightDecodesByN : Prop :=
  ∀ x y n : Fin 16,
    let i := decode (BitVec.ofNat 16 (0x8000 + 0x100 * x.val + 0x10 * y.val + n.val))
    (n = 0x0 → i = .ldReg x y) ∧ (n = 0x1 → i = .orReg x y) ∧ (n = 0x2 → i = .andReg x y) ∧
    (n = 0x3 → i = .xorReg x y) ∧ (n = 0x4 → i = .addReg x y) ∧ (n = 0x5 → i = .sub x y) ∧
    (n = 0x6 → i = .shr x y) ∧ (n = 0x7 → i = .subn x y) ∧ (n = 0xE → i = .shl x y) ∧
    (n ∈ [8, 9, 0xA, 0xB, 0xC, 0xD, 0xF] → ∃ w, i = .unrecognized w)

/-- R88, R89: families E and F by `kk`, the selectors that name nothing included. -/
def Obligations.FamiliesEAndFDecodeByKk : Prop :=
  ∀ (x : Reg) (kk : Byte),
    let e := decode (BitVec.ofNat 16 (0xE000 + 0x100 * x.val + kk.toNat))
    let f := decode (BitVec.ofNat 16 (0xF000 + 0x100 * x.val + kk.toNat))
    (kk = 0x9E → e = .skp x) ∧ (kk = 0xA1 → e = .sknp x) ∧ (kk ∉ [0x9E, 0xA1] → ∃ w, e = .unrecognized w) ∧
    (kk = 0x07 → f = .ldVxDt x) ∧ (kk = 0x0A → f = .ldVxK x) ∧ (kk = 0x15 → f = .ldDtVx x) ∧
    (kk = 0x18 → f = .ldStVx x) ∧ (kk = 0x1E → f = .addI x) ∧ (kk = 0x29 → f = .ldF x) ∧ (kk = 0x33 → f = .ldB x) ∧
    (kk = 0x55 → f = .storeRegs x) ∧ (kk = 0x65 → f = .loadRegs x) ∧
    (kk ∉ [0x07, 0x0A, 0x15, 0x18, 0x1E, 0x29, 0x33, 0x55, 0x65] → ∃ w, f = .unrecognized w)

/-- R90, R91: the words that decode to no instruction are exactly those R90 lists, and each keeps its own bits. -/
def Obligations.UnrecognizedWordsAreThoseListed : Prop :=
  ∀ w : Word, (decode w = .unrecognized w ↔ unrecognizedWord w = true) ∧ ∀ u, decode w = .unrecognized u → u = w

/-- R96: the decoded instruction's row matches the word by `(w & mask) = match`; a matching row other than SYS and the
last is the decoded one's; a match of the SYS row gives SYS, CLS or RET; the last row is taken only when none matches. -/
def Obligations.MatchAndMaskSelectTheRow : Prop :=
  ∀ w : Word,
    w &&& (tableRow (decode w)).2 = (tableRow (decode w)).1 ∧
    (∀ i : Instr, (∀ nnn, i ≠ .sys nnn) → (∀ u, i ≠ .unrecognized u) → w &&& (tableRow i).2 = (tableRow i).1 →
      tableRow (decode w) = tableRow i) ∧
    (w &&& 0xF000 = 0x0000 → decode w = .cls ∨ decode w = .ret ∨ ∃ nnn, decode w = .sys nnn) ∧
    (∀ u, decode w = .unrecognized u →
      ∀ i : Instr, (∀ u, i ≠ .unrecognized u) → w &&& (tableRow i).2 ≠ (tableRow i).1)

/-- Decode and encode agree: no bit of a well-formed instruction is lost. -/
def Obligations.DecodeOfEncode : Prop := ∀ i : Instr, i.wellFormed = true → decode (encode i) = i

/-- The other direction, R91: every one of the 65536 words decodes, to a well-formed term whose word it is. -/
def Obligations.EncodeOfDecode : Prop := ∀ w : Word, (decode w).wellFormed = true ∧ encode (decode w) = w

/-! ### The step -/

/-- R103: a core that runs and waits for no key fetches the big-endian word at `PC` and `PC + 1` mod 4096, advances `PC`
by 2 mod 4096 and runs the decoded instruction. Around it the model's step lets the host present its next input and the
ticks since the last step act on the timers (R231, log entries 3 and 11); nothing else differs before the handler runs. -/
def Obligations.StepRunsTheDecodedInstruction : Prop :=
  ∀ s : State, s.terminate = false → s.fault = .none → s.keyWait = none →
    ∃ u : State,
      step s = exec (decode (BitVec.ofNat 16
        (256 * (s.readByte (BitVec.ofNat 12 s.pc.toNat)).toNat +
          (s.readByte (BitVec.ofNat 12 (s.pc.toNat + 1))).toNat))) u ∧
      u.pc.toNat = (s.pc.toNat + 2) % 4096 ∧
      u.ports = s.nextInput ∧ u.dt.toNat = s.dt.toNat - s.nextInput.ticks ∧
      u.st.toNat = s.st.toNat - s.nextInput.ticks ∧
      UnchangedBut [.pc, .delayTimer, .soundTimer, .host] s u

/-- R102: a halted core takes no step and says why, as a fault (log entry 6); ticks remain possible. -/
def Obligations.HaltedCoreTakesNoStep : Prop :=
  ∀ s : State,
    (s.terminate = true → step s = .fault .terminated) ∧
    (s.terminate = false → s.fault ≠ .none → step s = .fault .stackOverflow) ∧
    s.tick.dt.toNat = s.dt.toNat - 1 ∧ s.tick.st.toNat = s.st.toNat - 1

/-- R107, R205: with a key at the port the waiting core takes it. Without one it holds: there is no transition, and the
model's step answers the fault `held` (log entry 7). However many ticks fall in the hold (R231), an input
with a key that the host then presents lifts it, and both timers have counted all ticks. -/
def Obligations.KeyWaitCompletesOrHolds : Prop :=
  ∀ (s : State) (x : Reg), s.terminate = false → s.fault = .none → s.keyWait = some x →
    (∀ k, s.nextInput.keyIn = some k →
      ∃ t, step s = .next t ∧ (t.readV x).toNat = k.val ∧ t.keyWait = none ∧
        t.dt.toNat = s.dt.toNat - s.nextInput.ticks ∧ t.st.toNat = s.st.toNat - s.nextInput.ticks ∧
        UnchangedBut [.reg x, .keyWait, .delayTimer, .soundTimer, .host] s t) ∧
    (s.nextInput.keyIn = none →
      step s = .fault .held ∧
      ∀ (n : Nat) (h : HostInput) (k : Key), h.keyIn = some k →
        ∃ t, step ((State.tick^[n] s).present h) = .next t ∧ (t.readV x).toNat = k.val ∧ t.keyWait = none ∧
          t.dt.toNat = s.dt.toNat - (n + h.ticks) ∧ t.st.toNat = s.st.toNat - (n + h.ticks) ∧
          UnchangedBut [.reg x, .keyWait, .delayTimer, .soundTimer, .host] s t)

/-- A step stops in the halted states (R102, R228), as the fault `terminated` or `stackOverflow` (the model's form of
R110's `Halted`, log entry 6); in a running core that waits with no key at the port, as the fault `held` (R110's `Hold`,
log entry 7); and in no other state. Nothing is ever refused: no encoding is illegal (R223), every handler is total (R220). -/
def Obligations.StepStopsExactlyWhenHaltedOrHeld : Prop :=
  ∀ s : State,
    ((∃ f, f ≠ .held ∧ step s = .fault f) ↔ (s.terminate = true ∨ s.fault ≠ .none)) ∧
    (step s = .fault .held ↔
      s.terminate = false ∧ s.fault = .none ∧ s.keyWait ≠ none ∧ s.nextInput.keyIn = none) ∧
    (s.terminate = false → s.fault = .none → s.keyWait = none → ∃ t, step s = .next t) ∧
    (s.terminate = false → s.fault = .none → s.keyWait ≠ none → s.nextInput.keyIn ≠ none → ∃ t, step s = .next t) ∧
    ∀ r, step s ≠ .refused r

/-- A word placed where the next step fetches is the one it runs, for every word and every `PC` (R60, R63, R103).
`withFetchWord` is the model's own: it also clears `terminate`, `fault` and `keyWait`, so that a halted or waiting state
fetches too (log entry 9). Around the handler stands the host's turn, as in StepRunsTheDecodedInstruction (log entries 3
and 11): the ports take the next input and its ticks act on the timers. -/
def Obligations.PlacedWordIsRun : Prop :=
  ∀ (s : State) (w : Nat), s.mem.wf = true → w < 65536 →
    ∃ u, step (s.withFetchWord 16 w) = exec (decode (BitVec.ofNat 16 w)) u ∧
      u.pc.toNat = (s.pc.toNat + 2) % 4096 ∧
      u.terminate = false ∧ u.fault = .none ∧ u.keyWait = none ∧
      u.ports = s.nextInput ∧ u.dt.toNat = s.dt.toNat - s.nextInput.ticks ∧
      u.st.toNat = s.st.toNat - s.nextInput.ticks ∧
      UnchangedBut [.pc, .memory, .delayTimer, .soundTimer, .terminate, .fault, .keyWait, .host] s u ∧
      (∀ a, a ≠ effAddr s.pc 0 → a ≠ effAddr s.pc 1 → u.readByte a = s.readByte a)

/-! ### Construction and the invariant -/

/-- The state after reset is the one `RESET` of the empty image builds (R250, R252). -/
def Obligations.ResetIsEmptyConstruction : Prop := construct [] = .next State.reset

/-- R250-R254: an image that fits gives a running core with the font, the image at 0x200, zeros elsewhere and every other
field at its reset value; one that does not fit is refused. The font bytes are the parameter FONT. -/
def Obligations.ConstructionLoadsTheImage : Prop :=
  ∀ image : List Byte,
    (image.length ≤ 3584 →
      ∃ t, construct image = .next t ∧
        (∀ k (h : k < image.length), t.readByte (BitVec.ofNat 12 (0x200 + k)) = image[k]) ∧
        (∀ a : Addr, a.toNat < 0x50 → t.readByte a = Config.font.getD a.toNat 0) ∧
        (∀ a : Addr, 0x50 ≤ a.toNat → a.toNat < 0x200 → t.readByte a = 0) ∧
        (∀ a : Addr, 0x200 + image.length ≤ a.toNat → t.readByte a = 0) ∧
        (∀ r, t.readV r = 0) ∧ t.i = 0 ∧ t.pc = 0x200 ∧ t.sp = 0 ∧ t.stack.length = Config.stackCapacity ∧
        (∀ e ∈ t.stack, e = 0) ∧ (∀ r c, t.pixel r c = false) ∧ t.dt = 0 ∧ t.st = 0 ∧
        t.terminate = false ∧ t.fault = .none ∧ t.keyWait = none) ∧
    (3584 < image.length → construct image = .refused .imageTooLarge)

/-- The first step after reset with nothing placed: the word 0x0000, a no-op, so `PC` = 0x202 (R252). -/
def Obligations.FirstStepAfterReset : Prop :=
  ∃ t, step State.reset = .next t ∧ t.pc = 0x202 ∧ UnchangedBut [.pc, .host] State.reset t

/-- The invariant holds at reset. -/
def Obligations.InvariantAtReset : Prop := State.reset.Inv

/-- The invariant holds of every state that construction builds. -/
def Obligations.InvariantAtConstruction : Prop := ∀ image t, construct image = .next t → t.Inv

/-- Every step, and every tick, keeps the invariant: memory stays canonical, `PC`, `I` and the stack entries stay below
0x1000, the stack keeps its size and `SP` its bounds, a run never both ends and faults, a wait is of a running core. -/
def Obligations.EveryStepKeepsTheInvariant : Prop :=
  ∀ s : State, s.Inv → (∀ t, step s = .next t → t.Inv) ∧ s.tick.Inv

/-! ### Timers -/

/-- R230: one tick counts each timer down by one, floor at 0, and touches nothing else. -/
def Obligations.TickCountsDown : Prop :=
  ∀ s : State,
    s.tick.dt = (if s.dt ≠ 0 then s.dt - 1 else 0) ∧ s.tick.st = (if s.st ≠ 0 then s.st - 1 else 0) ∧
    UnchangedBut [.delayTimer, .soundTimer] s s.tick

/-- R231: what happens between two steps is some number of ticks, one after another, and the ports' new values. -/
def Obligations.TicksFallBetweenSteps : Prop :=
  ∀ s : State,
    s.hostTurn = State.tick^[s.nextInput.ticks] s.samplePorts ∧ UnchangedBut [.host] s s.samplePorts ∧
    s.hostTurn.dt.toNat = s.dt.toNat - s.nextInput.ticks ∧ s.hostTurn.st.toNat = s.st.toNat - s.nextInput.ticks

/-- R260: `Fx07` in the step after an `Fx15` of the value v reads v less the number of ticks in between, floor at 0; and
after an `Fx18` of v the sound output, those ticks later, is on exactly while they have not counted v down. -/
def Obligations.TimerReadAfterWriteWindow : Prop :=
  ∀ (s t : State) (x y : Reg), s.terminate = false → s.fault = .none → s.keyWait = none → step s = .next t →
    (decode s.fetchWord = .ldDtVx x → decode t.fetchWord = .ldVxDt y →
      ∃ u, step t = .next u ∧ (u.readV y).toNat = (s.readV x).toNat - t.nextInput.ticks) ∧
    (decode s.fetchWord = .ldStVx x →
      t.hostTurn.st.toNat = (s.readV x).toNat - t.nextInput.ticks ∧
        (t.hostTurn.sound = true ↔ t.nextInput.ticks < (s.readV x).toNat))

/-! ### Rules of the whole machine -/

/-- R46: only `00EE` on an empty stack sets `terminate`, nothing clears it, and a terminated state has no step. -/
def Obligations.TerminateOnlyByTopLevelReturn : Prop :=
  ∀ s t : State,
    (∀ i, exec i s = .next t → t.terminate ≠ s.terminate → i = .ret ∧ s.sp = 0 ∧ t.terminate = true) ∧
    (step s = .next t → t.terminate = true →
      s.keyWait = none ∧ decode s.fetchWord = .ret ∧ s.sp = 0) ∧
    (s.terminate = true → step s ≠ .next t)

/-- R47: only a failed push in `2nnn` sets `fault`, nothing clears it, and a faulted state has no step. -/
def Obligations.FaultOnlyByFailedPush : Prop :=
  ∀ s t : State,
    (∀ i, exec i s = .next t → t.fault ≠ s.fault →
      (∃ nnn, i = .call nnn) ∧ s.stack.length ≤ s.sp ∧ t.fault = .stackOverflow) ∧
    (step s = .next t → t.fault ≠ .none →
      s.keyWait = none ∧ (∃ nnn, decode s.fetchWord = .call nnn) ∧ s.stack.length ≤ s.sp) ∧
    (s.fault ≠ .none → step s ≠ .next t)

/-- R48: only `Fx0A` sets `keyWait`; a step of a waiting core that answers a next state got a key and clears it; and
`needKey` shows it. -/
def Obligations.KeyWaitOnlyByFx0A : Prop :=
  ∀ s t : State,
    (∀ i, exec i s = .next t → t.keyWait ≠ s.keyWait → ∃ x, i = .ldVxK x ∧ t.keyWait = some x) ∧
    (step s = .next t → s.keyWait ≠ none → t.keyWait = none ∧ ∃ k, s.nextInput.keyIn = some k) ∧
    (step s = .next t → s.keyWait = none → t.keyWait ≠ none → ∃ x, decode s.fetchWord = .ldVxK x) ∧
    (s.needKey = true ↔ s.keyWait ≠ none)

/-- R71: only `00E0` and `Dxyn` write the display, and only `Dxyn` reads it: for every other handler another display
changes nothing of the effect but the display it leaves as it was, and for `00E0` nothing at all. -/
def Obligations.DisplayReachedOnlyByClearAndDraw : Prop :=
  ∀ (i : Instr) (s : State), (∀ x y n, i ≠ .drw x y n) →
    (∀ t, exec i s = .next t → i ≠ .cls → t.disp = s.disp) ∧
    ∀ (d : Display) (t : State), exec i s = .next t →
      ∃ t', exec i { s with disp := d } = .next t' ∧ UnchangedBut [.display] t t' ∧
        t'.disp = (if i = .cls then t.disp else d)

/-- R70: of the handlers only those of `Fx33` and `Fx55` write memory, and only those of `Dxyn` and `Fx65` read it. -/
def Obligations.MemoryReachedOnlyByTransfersAndDraw : Prop :=
  ∀ (i : Instr) (s t : State), exec i s = .next t →
    ((∀ x, i ≠ .ldB x) → (∀ x, i ≠ .storeRegs x) → t.mem = s.mem) ∧
    ((∀ x, i ≠ .loadRegs x) → (∀ x y n, i ≠ .drw x y n) →
      ∀ m : Memory, ∃ t', exec i { s with mem := m } = .next t' ∧ UnchangedBut [.memory] t t')

/-- R39: only `2nnn` and `00EE` reach the stack. Written: `00EE` changes no entry, `2nnn` only the one at `SP`, and no other
handler changes an entry or `SP`. Read: for every other handler another stack and another `SP` change nothing of the
effect but themselves. -/
def Obligations.StackReachedOnlyByCallAndReturn : Prop :=
  ∀ (i : Instr) (s t : State), exec i s = .next t →
    ((∀ nnn, i ≠ .call nnn) → t.stack = s.stack) ∧
    ((∀ nnn, i ≠ .call nnn) → i ≠ .ret → t.sp = s.sp) ∧
    (t.stack.length = s.stack.length ∧ ∀ j, j ≠ s.sp → t.stack[j]? = s.stack[j]?) ∧
    (s.sp ≤ s.stack.length → t.sp ≤ t.stack.length) ∧
    ((∀ nnn, i ≠ .call nnn) → i ≠ .ret → ∀ (entries : List Word) (n : Nat),
      ∃ t', exec i { s with stack := entries, sp := n } = .next t' ∧ UnchangedBut [.stack, .sp] t t' ∧
        t'.stack = entries ∧ t'.sp = n)

/-- R38: `I` is written only by `Annn`, `Fx1E` and `Fx29`, each with its value, always at most 0xFFF; reset leaves 0, and
a step from `I` < 0x1000 leaves `I` < 0x1000. -/
def Obligations.IndexWrittenOnlyByThree : Prop :=
  State.reset.i = 0 ∧
  ∀ s t : State,
    (∀ i, exec i s = .next t → t.i ≠ s.i →
      (∃ nnn, i = .ldI nnn ∧ t.i.toNat = nnn.toNat) ∨
      (∃ x, i = .addI x ∧ t.i = BitVec.ofNat 16 (s.i.toNat + (s.readV x).toNat) &&& 0xFFF) ∨
      (∃ x, i = .ldF x ∧ t.i.toNat = 5 * (s.readV x).toNat)) ∧
    (∀ i, exec i s = .next t → t.i ≠ s.i → t.i.toNat ≤ 0xFFF) ∧
    (step s = .next t → s.i.toNat < 0x1000 → t.i.toNat < 0x1000)

/-- R50: the timers are written by no instruction but `Fx15` (`DT`) and `Fx18` (`ST`). -/
def Obligations.TimersWrittenOnlyByTheirLoads : Prop :=
  ∀ (i : Instr) (s t : State), exec i s = .next t →
    ((∀ x, i ≠ .ldDtVx x) → t.dt = s.dt) ∧ ((∀ x, i ≠ .ldStVx x) → t.st = s.st)

/-- R34: the general registers are written by the instructions of its table and by no others, and read by those and no
others: a register an instruction does not read changes nothing of its effect. `Fx0A` writes its register at completion. -/
def Obligations.RegistersReadAndWrittenAsListed : Prop :=
  ∀ (i : Instr) (s t : State), exec i s = .next t →
    (∀ r, r ∉ registersWritten i → t.readV r = s.readV r) ∧
    (∀ r b, r ∉ registersRead i →
      ∃ t', exec i (s.writeV r b) = .next t' ∧ UnchangedBut [.reg r] t t' ∧
        t'.readV r = (if r ∈ registersWritten i then t.readV r else b)) ∧
    (∀ x k, i = .ldVxK x → t.ports.keyIn = some k →
      ∃ u, t.keyWaitTurn x = .next u ∧ UnchangedBut [.reg x, .keyWait] t u ∧ (u.readV x).toNat = k.val)

/-- R37: which instructions give `PC` another value than the fetch advance did. -/
def Obligations.ProgramCounterChangedOnlyByControl : Prop :=
  ∀ (i : Instr) (s t : State), exec i s = .next t → t.pc ≠ s.pc →
    i = .ret ∨ (∃ nnn, i = .jp nnn ∨ i = .call nnn ∨ i = .jpV0 nnn) ∨ (∃ x kk, i = .seImm x kk ∨ i = .sneImm x kk) ∨
      (∃ x y, i = .seReg x y ∨ i = .sneReg x y) ∨ ∃ x, i = .skp x ∨ i = .sknp x

/-- R101, R112: the ports reach the handlers only through `RND` for `Cxkk` and `KEYDOWN` for `Ex9E` and `ExA1`. -/
def Obligations.PortsReachOnlyTheirInstructions : Prop :=
  ∀ (i : Instr) (s t : State) (p : HostInput), exec i s = .next t →
    ((∀ x kk, i = .rnd x kk → p.rnd = s.ports.rnd) →
      (∀ x, i = .skp x ∨ i = .sknp x → p.keyDown = s.ports.keyDown) →
      ∃ t', exec i { s with ports := p } = .next t' ∧ UnchangedBut [.host] t t')

/-- R130: calls nested to any depth the stack holds, then as many returns, leave `PC` after the first call and `SP` as it
was; only stack entries from `SP` on differ. -/
def Obligations.NestedCallsReturn : Prop :=
  ∀ (targets : List Addr) (s : State), targets ≠ [] → s.sp + targets.length ≤ s.stack.length →
    ∃ t, runHandlers (targets.map .call ++ List.replicate targets.length .ret) s = .next t ∧
      t.pc.toNat = (s.pc.toNat + 2) % 4096 ∧ t.sp = s.sp ∧ (∀ j < s.sp, t.stack[j]? = s.stack[j]?) ∧
      UnchangedBut [.pc, .stack] s t

/-- R76: the next fetch sees what `Fx55` or `Fx33` stored. Of its two bytes (R60: the one at `PC` high), each is the stored
one where its address lies in the stored block, the register or the digit that belongs there, and the old one where not;
so blocks that the word overlaps by both bytes, by either one alone or by none are all covered. -/
def Obligations.NextFetchSeesTheStore : Prop :=
  ∀ (s t : State) (x : Reg), s.mem.wf = true →
    (exec (.storeRegs x) s = .next t →
      (∀ r : Reg, r ≤ x → effAddr t.pc 0 = effAddr s.i r.val → t.fetchWord.toNat / 256 = (s.readV r).toNat) ∧
      (∀ r : Reg, r ≤ x → effAddr t.pc 1 = effAddr s.i r.val → t.fetchWord.toNat % 256 = (s.readV r).toNat) ∧
      ((∀ r : Reg, r ≤ x → effAddr t.pc 0 ≠ effAddr s.i r.val) → t.fetchWord.toNat / 256 = s.fetchWord.toNat / 256) ∧
      ((∀ r : Reg, r ≤ x → effAddr t.pc 1 ≠ effAddr s.i r.val) → t.fetchWord.toNat % 256 = s.fetchWord.toNat % 256)) ∧
    (exec (.ldB x) s = .next t →
      ∀ k : Nat, k < 3 →
        let digit := if k = 0 then (s.readV x).toNat / 100 else if k = 1 then (s.readV x).toNat / 10 % 10
          else (s.readV x).toNat % 10
        (effAddr t.pc 0 = effAddr s.i k → t.fetchWord.toNat / 256 = digit) ∧
        (effAddr t.pc 1 = effAddr s.i k → t.fetchWord.toNat % 256 = digit) ∧
        ((∀ j < 3, effAddr t.pc 0 ≠ effAddr s.i j) → t.fetchWord.toNat / 256 = s.fetchWord.toNat / 256) ∧
        ((∀ j < 3, effAddr t.pc 1 ≠ effAddr s.i j) → t.fetchWord.toNat % 256 = s.fetchWord.toNat % 256))

/-! ### Control flow -/

/-- R121, R111: SYS and an unrecognized word change nothing after the fetch advance. -/
def Obligations.NoOpsChangeNothing : Prop :=
  (∀ (nnn : Addr) (s : State), exec (.sys nnn) s = .next s) ∧
  (∀ (w : Word) (s : State), exec (.unrecognized w) s = .next s) ∧
  (∀ w : Word, w &&& 0xF000 = 0x0000 → w ≠ 0x00E0 → w ≠ 0x00EE → ∃ nnn, decode w = .sys nnn)

/-- R122: RET pops into `PC`, the popped entry kept as a dead one; on an empty stack it only sets `terminate`. -/
def Obligations.ReturnPopsOrTerminates : Prop :=
  decode 0x00EE = .ret ∧
  ∀ s : State,
    (s.sp = 0 → ∃ t, exec .ret s = .next t ∧ t.terminate = true ∧ UnchangedBut [.terminate] s t) ∧
    (s.sp ≠ 0 → s.sp ≤ s.stack.length →
      ∃ t, exec .ret s = .next t ∧ t.sp = s.sp - 1 ∧ s.stack[s.sp - 1]? = some t.pc ∧ UnchangedBut [.sp, .pc] s t)

/-- R123, R129: the two jumps. -/
def Obligations.JumpsSetTheProgramCounter : Prop :=
  ∀ (nnn : Addr) (s : State),
    decode (BitVec.ofNat 16 (0x1000 + nnn.toNat)) = .jp nnn ∧ decode (BitVec.ofNat 16 (0xB000 + nnn.toNat)) = .jpV0 nnn ∧
    (∃ t, exec (.jp nnn) s = .next t ∧ t.pc.toNat = nnn.toNat ∧ UnchangedBut [.pc] s t) ∧
    (∃ t, exec (.jpV0 nnn) s = .next t ∧ t.pc.toNat = ((s.readV 0).toNat + nnn.toNat) % 4096 ∧
      UnchangedBut [.pc] s t)

/-- R124, R222: CALL pushes the address after it and jumps; on a full stack it raises StackOverflow and does nothing
else. `STACK_CAPACITY` is the number of entries the stack has (log entry 4). -/
def Obligations.CallPushesOrOverflows : Prop :=
  ∀ (nnn : Addr) (s : State),
    decode (BitVec.ofNat 16 (0x2000 + nnn.toNat)) = .call nnn ∧
    (s.sp < s.stack.length →
      ∃ t, exec (.call nnn) s = .next t ∧ t.pc.toNat = nnn.toNat ∧ t.sp = s.sp + 1 ∧
        (∀ j : Nat, t.stack[j]? = if j = s.sp then some s.pc else s.stack[j]?) ∧
        UnchangedBut [.pc, .sp, .stack] s t) ∧
    (s.sp = s.stack.length →
      ∃ t, exec (.call nnn) s = .next t ∧ t.fault = .stackOverflow ∧ UnchangedBut [.fault] s t)

/-- R125-R128: the four compares skip one word, `PC + 2` mod 4096, exactly when their condition holds. -/
def Obligations.ComparesSkipOneWord : Prop :=
  ∀ (x y : Reg) (kk : Byte) (s : State),
    decode (BitVec.ofNat 16 (0x3000 + 0x100 * x.val + kk.toNat)) = .seImm x kk ∧
    decode (BitVec.ofNat 16 (0x4000 + 0x100 * x.val + kk.toNat)) = .sneImm x kk ∧
    decode (BitVec.ofNat 16 (0x5000 + 0x100 * x.val + 0x10 * y.val)) = .seReg x y ∧
    decode (BitVec.ofNat 16 (0x9000 + 0x100 * x.val + 0x10 * y.val)) = .sneReg x y ∧
    (∃ t, exec (.seImm x kk) s = .next t ∧ UnchangedBut [.pc] s t ∧
      t.pc.toNat = if s.readV x = kk then (s.pc.toNat + 2) % 4096 else s.pc.toNat) ∧
    (∃ t, exec (.sneImm x kk) s = .next t ∧ UnchangedBut [.pc] s t ∧
      t.pc.toNat = if s.readV x ≠ kk then (s.pc.toNat + 2) % 4096 else s.pc.toNat) ∧
    (∃ t, exec (.seReg x y) s = .next t ∧ UnchangedBut [.pc] s t ∧
      t.pc.toNat = if s.readV x = s.readV y then (s.pc.toNat + 2) % 4096 else s.pc.toNat) ∧
    (∃ t, exec (.sneReg x y) s = .next t ∧ UnchangedBut [.pc] s t ∧
      t.pc.toNat = if s.readV x ≠ s.readV y then (s.pc.toNat + 2) % 4096 else s.pc.toNat)

/-! ### Register loads and ALU -/

/-- R141, R143: the register loads. -/
def Obligations.RegisterLoads : Prop :=
  ∀ (x y : Reg) (kk : Byte) (s : State),
    decode (BitVec.ofNat 16 (0x6000 + 0x100 * x.val + kk.toNat)) = .ldImm x kk ∧
    decode (BitVec.ofNat 16 (0x8000 + 0x100 * x.val + 0x10 * y.val)) = .ldReg x y ∧
    (∃ t, exec (.ldImm x kk) s = .next t ∧ t.readV x = kk ∧ UnchangedBut [.reg x] s t) ∧
    (∃ t, exec (.ldReg x y) s = .next t ∧ t.readV x = s.readV y ∧ UnchangedBut [.reg x] s t)

/-- R142: ADD Vx, kk wraps mod 256 and writes no flag. -/
def Obligations.AddImmediateWraps : Prop :=
  ∀ (x : Reg) (kk : Byte) (s : State),
    decode (BitVec.ofNat 16 (0x7000 + 0x100 * x.val + kk.toNat)) = .addImm x kk ∧
    ∃ t, exec (.addImm x kk) s = .next t ∧ (t.readV x).toNat = ((s.readV x).toNat + kk.toNat) % 256 ∧
      UnchangedBut [.reg x] s t

/-- R144-R146: the logical operations, bit by bit, with no flag. -/
def Obligations.LogicalOperationsBitByBit : Prop :=
  ∀ (x y : Reg) (s : State),
    decode (BitVec.ofNat 16 (0x8001 + 0x100 * x.val + 0x10 * y.val)) = .orReg x y ∧
    decode (BitVec.ofNat 16 (0x8002 + 0x100 * x.val + 0x10 * y.val)) = .andReg x y ∧
    decode (BitVec.ofNat 16 (0x8003 + 0x100 * x.val + 0x10 * y.val)) = .xorReg x y ∧
    (∃ t, exec (.orReg x y) s = .next t ∧ UnchangedBut [.reg x] s t ∧
      ∀ j, (t.readV x).getLsbD j = ((s.readV x).getLsbD j || (s.readV y).getLsbD j)) ∧
    (∃ t, exec (.andReg x y) s = .next t ∧ UnchangedBut [.reg x] s t ∧
      ∀ j, (t.readV x).getLsbD j = ((s.readV x).getLsbD j && (s.readV y).getLsbD j)) ∧
    (∃ t, exec (.xorReg x y) s = .next t ∧ UnchangedBut [.reg x] s t ∧
      ∀ j, (t.readV x).getLsbD j = ((s.readV x).getLsbD j != (s.readV y).getLsbD j))

/-- R147, R140: ADD Vx, Vy: the sum mod 256, then VF = 1 iff it passes 255; with x = F the flag stays. -/
def Obligations.AddWithCarry : Prop :=
  ∀ (x y : Reg) (s : State),
    let a := (s.readV x).toNat
    let b := (s.readV y).toNat
    decode (BitVec.ofNat 16 (0x8004 + 0x100 * x.val + 0x10 * y.val)) = .addReg x y ∧
    ∃ t, exec (.addReg x y) s = .next t ∧ (x ≠ regF → (t.readV x).toNat = (a + b) % 256) ∧
      t.readV regF = (if a + b > 255 then 1 else 0) ∧ UnchangedBut [.reg x, .reg regF] s t

/-- R148, R150: SUB and SUBN: the difference mod 256, then VF = 1 iff the minuend is strictly greater. -/
def Obligations.SubtractionsWithStrictFlag : Prop :=
  ∀ (x y : Reg) (s : State),
    let a := (s.readV x).toNat
    let b := (s.readV y).toNat
    decode (BitVec.ofNat 16 (0x8005 + 0x100 * x.val + 0x10 * y.val)) = .sub x y ∧
    decode (BitVec.ofNat 16 (0x8007 + 0x100 * x.val + 0x10 * y.val)) = .subn x y ∧
    (∃ t, exec (.sub x y) s = .next t ∧ (x ≠ regF → (t.readV x).toNat = (a + 256 - b) % 256) ∧
      t.readV regF = (if a > b then 1 else 0) ∧ UnchangedBut [.reg x, .reg regF] s t) ∧
    (∃ t, exec (.subn x y) s = .next t ∧ (x ≠ regF → (t.readV x).toNat = (b + 256 - a) % 256) ∧
      t.readV regF = (if b > a then 1 else 0) ∧ UnchangedBut [.reg x, .reg regF] s t)

/-- R149, R151: the shifts of Vx by one, Vy ignored, then VF = the bit shifted out. -/
def Obligations.ShiftsByOneBit : Prop :=
  ∀ (x y : Reg) (s : State),
    let a := (s.readV x).toNat
    decode (BitVec.ofNat 16 (0x8006 + 0x100 * x.val + 0x10 * y.val)) = .shr x y ∧
    decode (BitVec.ofNat 16 (0x800E + 0x100 * x.val + 0x10 * y.val)) = .shl x y ∧
    (∃ t, exec (.shr x y) s = .next t ∧ (x ≠ regF → (t.readV x).toNat = a / 2) ∧
      (t.readV regF).toNat = a % 2 ∧ UnchangedBut [.reg x, .reg regF] s t) ∧
    (∃ t, exec (.shl x y) s = .next t ∧ (x ≠ regF → (t.readV x).toNat = 2 * a % 256) ∧
      (t.readV regF).toNat = a / 128 ∧ UnchangedBut [.reg x, .reg regF] s t)

/-- R153: RND Vx, kk is the random byte at the port, masked bit by bit, whatever that byte is. -/
def Obligations.RandomByteIsMasked : Prop :=
  ∀ (x : Reg) (kk : Byte) (s : State),
    decode (BitVec.ofNat 16 (0xC000 + 0x100 * x.val + kk.toNat)) = .rnd x kk ∧
    ∃ t, exec (.rnd x kk) s = .next t ∧ UnchangedBut [.reg x] s t ∧
      ∀ j, (t.readV x).getLsbD j = (s.ports.rnd.getLsbD j && kk.getLsbD j)

/-! ### Index register and memory -/

/-- R171-R173: the three writes of `I`; no register, no flag, no memory changes. -/
def Obligations.IndexRegisterWrites : Prop :=
  ∀ (x : Reg) (nnn : Addr) (s : State),
    decode (BitVec.ofNat 16 (0xA000 + nnn.toNat)) = .ldI nnn ∧ decode (BitVec.ofNat 16 (0xF01E + 0x100 * x.val)) = .addI x ∧
    decode (BitVec.ofNat 16 (0xF029 + 0x100 * x.val)) = .ldF x ∧
    (∃ t, exec (.ldI nnn) s = .next t ∧ t.i.toNat = nnn.toNat ∧ UnchangedBut [.index] s t) ∧
    (∃ t, exec (.addI x) s = .next t ∧ t.i.toNat = (s.i.toNat + (s.readV x).toNat) % 4096 ∧
      UnchangedBut [.index] s t) ∧
    (∃ t, exec (.ldF x) s = .next t ∧ t.i.toNat = 5 * (s.readV x).toNat ∧ UnchangedBut [.index] s t)

/-- R174: LD B, Vx stores the three decimal digits at `I`, `I + 1`, `I + 2` mod 4096 and changes no other byte. -/
def Obligations.DecimalDigitsStored : Prop :=
  ∀ (x : Reg) (s : State), s.mem.wf = true →
    decode (BitVec.ofNat 16 (0xF033 + 0x100 * x.val)) = .ldB x ∧
    ∃ t, exec (.ldB x) s = .next t ∧
      (t.readByte (effAddr s.i 0)).toNat = (s.readV x).toNat / 100 ∧
      (t.readByte (effAddr s.i 1)).toNat = (s.readV x).toNat / 10 % 10 ∧
      (t.readByte (effAddr s.i 2)).toNat = (s.readV x).toNat % 10 ∧
      (∀ a, (∀ k < 3, a ≠ effAddr s.i k) → t.readByte a = s.readByte a) ∧ t.mem.wf = true ∧
      UnchangedBut [.memory] s t

/-- R175: LD [I], Vx stores V0..Vx at `I`, …, `I + x` mod 4096 and changes no other byte; `I` is unchanged. -/
def Obligations.RegisterBlockStored : Prop :=
  ∀ (x : Reg) (s : State), s.mem.wf = true →
    decode (BitVec.ofNat 16 (0xF055 + 0x100 * x.val)) = .storeRegs x ∧
    ∃ t, exec (.storeRegs x) s = .next t ∧
      (∀ r : Reg, r ≤ x → t.readByte (effAddr s.i r.val) = s.readV r) ∧
      (∀ a, (∀ r : Reg, r ≤ x → a ≠ effAddr s.i r.val) → t.readByte a = s.readByte a) ∧ t.mem.wf = true ∧
      UnchangedBut [.memory] s t

/-- R176: LD Vx, [I] loads V0..Vx from `I`, …, `I + x` mod 4096; the registers above x and `I` are unchanged. -/
def Obligations.RegisterBlockLoaded : Prop :=
  ∀ (x : Reg) (s : State),
    decode (BitVec.ofNat 16 (0xF065 + 0x100 * x.val)) = .loadRegs x ∧
    ∃ t, exec (.loadRegs x) s = .next t ∧
      (∀ r : Reg, r ≤ x → t.readV r = s.readByte (effAddr s.i r.val)) ∧
      UnchangedBut ((regsUpTo x).map .reg) s t

/-! ### Display -/

/-- R190: CLS turns every pixel off and changes nothing else, and only the exact word 0x00E0 is CLS. -/
def Obligations.ClearTurnsEveryPixelOff : Prop :=
  decode 0x00E0 = .cls ∧ (∀ w : Word, decode w = .cls → w = 0x00E0) ∧
  ∀ s : State, ∃ t, exec .cls s = .next t ∧ (∀ r c, t.pixel r c = false) ∧ UnchangedBut [.display] s t

/-- R191, R192: DRW flips exactly the pixels that a set sprite bit covers, with wraparound and bit 7 leftmost, and then
VF is 1 iff one of them was on. It is the closed form of the rule's two loops. -/
def Obligations.DrawFlipsTheSpritePixels : Prop :=
  ∀ (x y : Reg) (n : Fin 16) (s : State),
    decode (BitVec.ofNat 16 (0xD000 + 0x100 * x.val + 0x10 * y.val + n.val)) = .drw x y n ∧
    ∃ t, exec (.drw x y n) s = .next t ∧
      (∀ r c, t.pixel r c = (s.pixel r c != spriteCovers s x y n r c)) ∧
      ((∃ r c, spriteCovers s x y n r c = true ∧ s.pixel r c = true) → t.readV regF = 1) ∧
      ((∀ r c, spriteCovers s x y n r c = true → s.pixel r c = false) → t.readV regF = 0) ∧
      UnchangedBut [.display, .reg regF] s t

/-- The laws of two equal draws that follow from R191: the second restores the display; its VF is 1 iff some pixel under
a set sprite bit was OFF before the first. Where they were all off, that is iff the sprite has a set bit among its rows,
which R193 says of every display (log entry 10: R191's pseudocode is followed). And the locality law of R193: a draw
changes no pixel outside the sprite's set bits. -/
def Obligations.DrawTwiceRestoresTheDisplay : Prop :=
  ∀ (x y : Reg) (n : Fin 16) (s t : State), exec (.drw x y n) s = .next t →
    (∀ r c, spriteCovers s x y n r c = false → t.pixel r c = s.pixel r c) ∧
    ∀ t' : State, (∀ r c, t'.pixel r c = t.pixel r c) → t'.readV x = s.readV x → t'.readV y = s.readV y →
      t'.i = s.i → (∀ a, t'.readByte a = s.readByte a) →
      ∃ u, exec (.drw x y n) t' = .next u ∧ (∀ r c, u.pixel r c = s.pixel r c) ∧
        ((∃ r c, spriteCovers s x y n r c = true ∧ s.pixel r c = false) → u.readV regF = 1) ∧
        ((∀ r c, spriteCovers s x y n r c = true → s.pixel r c = true) → u.readV regF = 0) ∧
        ((∀ r c, spriteCovers s x y n r c = true → s.pixel r c = false) →
          u.readV regF = if ∃ k < n.val, s.readByte (effAddr s.i k) ≠ 0 then 1 else 0)

/-! ### Timers and keys -/

/-- R201, R202: SKP and SKNP skip by what the host says of key Vx, for every 8-bit Vx; exactly one of them skips. -/
def Obligations.KeySkipsFollowTheHost : Prop :=
  ∀ (x : Reg) (s : State),
    let down : Bool := s.ports.keyDown[(s.readV x).toNat]
    decode (BitVec.ofNat 16 (0xE09E + 0x100 * x.val)) = .skp x ∧ decode (BitVec.ofNat 16 (0xE0A1 + 0x100 * x.val)) = .sknp x ∧
    (∃ t, exec (.skp x) s = .next t ∧ UnchangedBut [.pc] s t ∧
      t.pc.toNat = if down = true then (s.pc.toNat + 2) % 4096 else s.pc.toNat) ∧
    (∃ t, exec (.sknp x) s = .next t ∧ UnchangedBut [.pc] s t ∧
      t.pc.toNat = if down = false then (s.pc.toNat + 2) % 4096 else s.pc.toNat)

/-- R203, R206, R207: the timer read and the two timer writes; `sound` is on exactly when `ST` is not 0 (R42). -/
def Obligations.TimerReadAndWrites : Prop :=
  ∀ (x : Reg) (s : State),
    decode (BitVec.ofNat 16 (0xF007 + 0x100 * x.val)) = .ldVxDt x ∧ decode (BitVec.ofNat 16 (0xF015 + 0x100 * x.val)) = .ldDtVx x ∧
    decode (BitVec.ofNat 16 (0xF018 + 0x100 * x.val)) = .ldStVx x ∧
    (∃ t, exec (.ldVxDt x) s = .next t ∧ t.readV x = s.dt ∧ UnchangedBut [.reg x] s t) ∧
    (∃ t, exec (.ldDtVx x) s = .next t ∧ t.dt = s.readV x ∧ UnchangedBut [.delayTimer] s t) ∧
    (∃ t, exec (.ldStVx x) s = .next t ∧ t.st = s.readV x ∧ (t.sound = true ↔ s.readV x ≠ 0) ∧
      UnchangedBut [.soundTimer] s t)

/-- R204: LD Vx, K starts the wait; Vx is not yet written, and `needKey` is on. -/
def Obligations.KeyWaitStarts : Prop :=
  ∀ (x : Reg) (s : State),
    decode (BitVec.ofNat 16 (0xF00A + 0x100 * x.val)) = .ldVxK x ∧
    ∃ t, exec (.ldVxK x) s = .next t ∧ t.keyWait = some x ∧ t.needKey = true ∧ UnchangedBut [.keyWait] s t
end

