-- ==== Sys2Proof/Laws/Decode.lean ====
section
/-! SUPPORT. The fields of a packed word, and the packing of a word's fields: what the round trips rest on. -/

namespace Sys2Proof

theorem bits_eq (w : Word) (hi lo : Nat) : bits w hi lo = w.toNat / 2 ^ lo % 2 ^ (hi - lo + 1) := rfl

/-! ### The fields of a packed word -/

theorem toNat_packXYN {op : Nat} (h : op < 16) (x y n : Fin 16) :
    (packXYN op x y n).toNat = 4096 * op + 256 * x.val + 16 * y.val + n.val := by
  simp only [packXYN, BitVec.toNat_ofNat]; omega

theorem toNat_packXKK {op : Nat} (h : op < 16) (x : Reg) (kk : Byte) :
    (packXKK op x kk).toNat = 4096 * op + 256 * x.val + kk.toNat := by
  simp only [packXKK, BitVec.toNat_ofNat]; omega

theorem toNat_packNNN {op : Nat} (h : op < 16) (nnn : Addr) : (packNNN op nnn).toNat = 4096 * op + nnn.toNat := by
  simp only [packNNN, BitVec.toNat_ofNat]; omega

theorem fieldOp_packXYN {op : Nat} (h : op < 16) (x y n : Fin 16) : fieldOp (packXYN op x y n) = op := by
  simp only [fieldOp, bits, toNat_packXYN h]; omega

theorem fieldX_packXYN {op : Nat} (h : op < 16) (x y n : Fin 16) : fieldX (packXYN op x y n) = x := by
  apply Fin.ext; simp only [fieldX, bits, toNat_packXYN h, Fin.ofNat]; omega

theorem fieldY_packXYN {op : Nat} (h : op < 16) (x y n : Fin 16) : fieldY (packXYN op x y n) = y := by
  apply Fin.ext; simp only [fieldY, bits, toNat_packXYN h, Fin.ofNat]; omega

theorem fieldN_packXYN {op : Nat} (h : op < 16) (x y n : Fin 16) : fieldN (packXYN op x y n) = n := by
  apply Fin.ext; simp only [fieldN, bits, toNat_packXYN h, Fin.ofNat]; omega

theorem bits_3_0_packXYN {op : Nat} (h : op < 16) (x y n : Fin 16) : bits (packXYN op x y n) 3 0 = n.val := by
  simp only [bits, toNat_packXYN h]; omega

theorem fieldOp_packXKK {op : Nat} (h : op < 16) (x : Reg) (kk : Byte) : fieldOp (packXKK op x kk) = op := by
  simp only [fieldOp, bits, toNat_packXKK h]; omega

theorem fieldX_packXKK {op : Nat} (h : op < 16) (x : Reg) (kk : Byte) : fieldX (packXKK op x kk) = x := by
  apply Fin.ext; simp only [fieldX, bits, toNat_packXKK h, Fin.ofNat]; omega

theorem fieldKk_packXKK {op : Nat} (h : op < 16) (x : Reg) (kk : Byte) : fieldKk (packXKK op x kk) = kk := by
  apply BitVec.eq_of_toNat_eq; simp only [fieldKk, bits, toNat_packXKK h, BitVec.toNat_ofNat]; omega

theorem bits_7_0_packXKK {op : Nat} (h : op < 16) (x : Reg) (kk : Byte) : bits (packXKK op x kk) 7 0 = kk.toNat := by
  simp only [bits, toNat_packXKK h]; omega

theorem fieldOp_packNNN {op : Nat} (h : op < 16) (nnn : Addr) : fieldOp (packNNN op nnn) = op := by
  simp only [fieldOp, bits, toNat_packNNN h]; omega

theorem fieldNnn_packNNN {op : Nat} (h : op < 16) (nnn : Addr) : fieldNnn (packNNN op nnn) = nnn := by
  apply BitVec.eq_of_toNat_eq; simp only [fieldNnn, bits, toNat_packNNN h, BitVec.toNat_ofNat]; omega

/-! ### A word is the packing of its fields -/

theorem packXYN_fields (w : Word) : packXYN (fieldOp w) (fieldX w) (fieldY w) (fieldN w) = w := by
  apply BitVec.eq_of_toNat_eq
  have := w.isLt
  simp only [packXYN, fieldOp, fieldX, fieldY, fieldN, bits, Fin.ofNat, BitVec.toNat_ofNat]
  omega

theorem packXKK_fields (w : Word) : packXKK (fieldOp w) (fieldX w) (fieldKk w) = w := by
  apply BitVec.eq_of_toNat_eq
  have := w.isLt
  simp only [packXKK, fieldOp, fieldX, fieldKk, bits, Fin.ofNat, BitVec.toNat_ofNat]
  omega

theorem packNNN_fields (w : Word) : packNNN (fieldOp w) (fieldNnn w) = w := by
  apply BitVec.eq_of_toNat_eq
  have := w.isLt
  simp only [packNNN, fieldOp, fieldNnn, bits, BitVec.toNat_ofNat]
  omega

theorem fieldOp_lt (w : Word) : fieldOp w < 16 := Nat.mod_lt _ (by decide)

/-! ### The masks of the opcode table (R96) -/

/-- Two words are equal when their bits, as quotients, agree. -/
theorem word_ext {v w : Word} (h : ∀ k < 16, v.toNat / 2 ^ k % 2 = w.toNat / 2 ^ k % 2) : v = w := by
  apply BitVec.eq_of_getLsbD_eq
  intro k hk
  have := h k hk
  simp only [BitVec.getLsbD, Nat.testBit_eq_decide_div_mod_eq, this]

/-- A bit of a masked word, as a quotient. -/
theorem div_and (v w : Word) (k : Nat) :
    (v &&& w).toNat / 2 ^ k % 2 = if v.toNat / 2 ^ k % 2 = 1 ∧ w.toNat / 2 ^ k % 2 = 1 then 1 else 0 := by
  have h := Nat.testBit_and v.toNat w.toNat k
  simp only [Nat.testBit_eq_decide_div_mod_eq, ← BitVec.toNat_and] at h
  rw [← Bool.decide_and, decide_eq_decide] at h
  split
  · exact h.2 ‹_›
  · have := mt h.1 ‹_›; omega

theorem and_F000 (w : Word) : w &&& 0xF000 = BitVec.ofNat 16 (4096 * fieldOp w) := by
  apply word_ext
  intro k hk
  have := w.isLt
  rw [div_and]
  simp only [fieldOp, bits, BitVec.toNat_ofNat]
  interval_cases k <;> split <;> simp at * <;> omega

theorem and_F00F (w : Word) : w &&& 0xF00F = BitVec.ofNat 16 (4096 * fieldOp w + bits w 3 0) := by
  apply word_ext
  intro k hk
  have := w.isLt
  rw [div_and]
  simp only [fieldOp, bits, BitVec.toNat_ofNat]
  interval_cases k <;> split <;> simp at * <;> omega

theorem and_F0FF (w : Word) : w &&& 0xF0FF = BitVec.ofNat 16 (4096 * fieldOp w + bits w 7 0) := by
  apply word_ext
  intro k hk
  have := w.isLt
  rw [div_and]
  simp only [fieldOp, bits, BitVec.toNat_ofNat]
  interval_cases k <;> split <;> simp at * <;> omega

theorem and_FFFF (w : Word) : w &&& 0xFFFF = w := by
  have : (0xFFFF : Word) = BitVec.allOnes 16 := by decide
  rw [this, BitVec.and_allOnes]

/-! ### Bytes and words -/

/-- The two bytes of a word, joined, are the word (R60). -/
theorem joinBytes_splitWord (w : Word) : joinBytes (splitWord w).1 (splitWord w).2 = w := by
  apply BitVec.eq_of_toNat_eq
  have := w.isLt
  simp only [joinBytes, splitWord, bits, BitVec.toNat_ofNat]
  omega

theorem toNat_joinBytes (hi lo : Byte) : (joinBytes hi lo).toNat = 256 * hi.toNat + lo.toNat := by
  simp only [joinBytes, BitVec.toNat_ofNat]; omega

/-- The decoder reads the table word of every row that has 16 bits. -/
theorem decodeTableWord_eq (nbits w : Nat) : decodeTableWord nbits w = some (decode (tableWord nbits w)) := by
  simp [decodeTableWord, decodeBytes, joinBytes_splitWord]

end Sys2Proof
end

