-- ==== Sys2Proof/Laws/Memory.lean ====
section
/-! SUPPORT. What the memory operations do: a read after a write, the canonical form kept, equal reads are equal memories. -/

namespace Sys2Proof.Machine

@[simp] theorem Memory.get_nil (a : Nat) : Memory.get [] a = Memory.unlisted a := rfl

@[simp] theorem Memory.wf_nil : Memory.wf [] = true := rfl

/-- The canonical form of a non-empty memory, as a proposition. -/
theorem Memory.wf_cons (a : Nat) (b : Byte) (m : Memory) :
    Memory.wf ((a, b) :: m) = true ↔
      a < 4096 ∧ b ≠ Memory.unlisted a ∧ (∀ c ∈ m, a < c.1) ∧ Memory.wf m = true := by
  simp [Memory.wf, List.all_eq_true, and_assoc]

/-- An address with no entry reads as its construction value. -/
theorem Memory.get_of_unlisted {m : Memory} {a : Nat} (h : ∀ c ∈ m, c.1 ≠ a) : m.get a = Memory.unlisted a := by
  induction m with
  | nil => rfl
  | cons c m ih =>
    have hc : a ≠ c.1 := fun e => h c (by simp) e.symm
    simp only [Memory.get, hc, if_false]
    exact ih fun d hd => h d (by simp [hd])

/-- A write adds no entry but one at the address written. -/
theorem Memory.mem_put {m : Memory} {a : Nat} {x : Byte} {c : Host.Cell} (h : c ∈ m.put a x) : c.1 = a ∨ c ∈ m := by
  induction m with
  | nil => simp only [Memory.put] at h; split at h <;> simp_all
  | cons d m ih =>
    simp only [Memory.put] at h
    split at h
    · split at h <;> simp_all
      rcases h with h | h <;> simp_all
    · split at h
      · split at h <;> simp_all
        rcases h with h | h <;> simp_all
      · rcases List.mem_cons.1 h with h | h
        · simp_all
        · rcases ih h with h | h <;> simp_all

/-- Every write keeps the canonical form. -/
theorem Memory.put_wf {m : Memory} {a : Nat} (x : Byte) (ha : a < 4096) (h : m.wf = true) : (m.put a x).wf = true := by
  induction m with
  | nil => simp only [Memory.put]; split <;> simp_all [Memory.wf_cons]
  | cons d m ih =>
    obtain ⟨c, b⟩ := d
    obtain ⟨hc, hb, hlt, hm⟩ := (Memory.wf_cons c b m).1 h
    simp only [Memory.put]
    split
    · rename_i hac
      split
      · exact h
      · refine (Memory.wf_cons ..).2 ⟨ha, ‹_›, ?_, h⟩
        intro e he
        rcases List.mem_cons.1 he with rfl | he
        · exact hac
        · exact hac.trans (hlt e he)
    · split
      · subst_vars
        split
        · exact hm
        · exact (Memory.wf_cons ..).2 ⟨ha, ‹_›, hlt, hm⟩
      · refine (Memory.wf_cons ..).2 ⟨hc, hb, ?_, ih hm⟩
        intro e he
        rcases Memory.mem_put he with rfl | he
        · omega
        · exact hlt e he

/-- A read of the address just written gives the byte; a read of any other gives what it gave. -/
theorem Memory.get_put {m : Memory} (h : m.wf = true) (a b : Nat) (x : Byte) :
    (m.put a x).get b = if b = a then x else m.get b := by
  induction m with
  | nil =>
    simp only [Memory.put]
    split <;> by_cases hb : b = a <;> simp_all [Memory.get]
  | cons d m ih =>
    obtain ⟨c, y⟩ := d
    obtain ⟨-, -, hlt, hm⟩ := (Memory.wf_cons c y m).1 h
    have hrest : ∀ q, q ≤ c → Memory.get m q = Memory.unlisted q := fun q hq =>
      Memory.get_of_unlisted fun e he => by have := hlt e he; omega
    simp only [Memory.put]
    split
    · rename_i hac
      split
      · by_cases hb : b = a
        · subst hb
          have hbc : b ≠ c := by omega
          simp [Memory.get, hrest b (by omega), *]
        · simp [hb]
      · simp only [Memory.get]
    · split
      · rename_i hac
        subst hac
        split
        · by_cases hb : b = a
          · subst hb; simp [hrest b (by omega), *]
          · simp [Memory.get, hb]
        · by_cases hb : b = a <;> simp [Memory.get, hb]
      · rename_i h1 h2
        by_cases hb : b = c
        · subst hb
          have hba : b ≠ a := fun e => h2 e.symm
          simp [Memory.get, hba]
        · simp [Memory.get, hb, ih hm]

/-- Two memories in canonical form that read the same are the same. -/
theorem Memory.ext_of_get {m m' : Memory} (h : m.wf = true) (h' : m'.wf = true) (e : ∀ a, m.get a = m'.get a) :
    m = m' := by
  have lead : ∀ {c : Nat} {y : Byte} {n n' : Memory}, Memory.wf ((c, y) :: n) = true → n'.wf = true →
      (∀ d ∈ n', c < d.1) → (∀ a, Memory.get ((c, y) :: n) a = n'.get a) → False := by
    intro c y n n' hw _ hl he
    have h1 := he c
    rw [Memory.get_of_unlisted (m := n') fun d hd => by have := hl d hd; omega] at h1
    exact ((Memory.wf_cons ..).1 hw).2.1 (by simpa [Memory.get] using h1)
  induction m generalizing m' with
  | nil =>
    cases m' with
    | nil => rfl
    | cons d m' => exact (lead h' h (by simp) fun a => (e a).symm).elim
  | cons d m ih =>
    obtain ⟨c, y⟩ := d
    have hc := (Memory.wf_cons c y m).1 h
    cases m' with
    | nil => exact (lead h h' (by simp) e).elim
    | cons d' m' =>
      obtain ⟨c', y'⟩ := d'
      have hc' := (Memory.wf_cons c' y' m').1 h'
      rcases Nat.lt_trichotomy c c' with hlt | rfl | hlt
      · refine (lead h h' ?_ e).elim
        intro q hq
        rcases List.mem_cons.1 hq with rfl | hq
        · exact hlt
        · exact hlt.trans (hc'.2.2.1 q hq)
      · have hy : y = y' := by simpa [Memory.get] using e c
        subst hy
        congr 1
        refine ih hc.2.2.2 hc'.2.2.2 fun a => ?_
        by_cases ha : a = c
        · subst ha
          rw [Memory.get_of_unlisted fun q hq => by have := hc.2.2.1 q hq; omega,
            Memory.get_of_unlisted fun q hq => by have := hc'.2.2.1 q hq; omega]
        · simpa [Memory.get, ha] using e a
      · refine (lead h' h ?_ fun a => (e a).symm).elim
        intro q hq
        rcases List.mem_cons.1 hq with rfl | hq
        · exact hlt
        · exact hlt.trans (hc.2.2.1 q hq)

/-! ### Blocks of bytes -/

@[simp] theorem effAddr_toNat (base : Word) (k : Nat) : (effAddr base k).toNat = (base.toNat + k) % 4096 := by
  simp [effAddr]

/-- Two offsets below 4096 give one address only if they are equal. -/
theorem effAddr_inj {base : Word} {j k : Nat} (hj : j < 4096) (hk : k < 4096)
    (h : effAddr base j = effAddr base k) : j = k := by
  have := congrArg BitVec.toNat h
  simp only [effAddr_toNat] at this
  omega

/-- Writing a block keeps the canonical form. -/
theorem Memory.putBlock_wf {m : Memory} (h : m.wf = true) (base : Word) (k : Nat) (bs : List Byte) :
    (m.putBlock base k bs).wf = true := by
  induction bs generalizing m k with
  | nil => exact h
  | cons b bs ih => exact ih (Memory.put_wf b (effAddr base k).isLt h) (k + 1)

/-- An address outside the block reads as before. -/
theorem Memory.get_putBlock_outside {m : Memory} (h : m.wf = true) (base : Word) (k : Nat) (bs : List Byte) {a : Nat}
    (ha : ∀ j < bs.length, a ≠ (effAddr base (k + j)).toNat) : (m.putBlock base k bs).get a = m.get a := by
  induction bs generalizing m k with
  | nil => rfl
  | cons b bs ih =>
    have h0 : a ≠ (effAddr base k).toNat := ha 0 (by simp)
    rw [Memory.putBlock, ih (Memory.put_wf b (effAddr base k).isLt h) (k + 1) ?_, Memory.get_put h, if_neg h0]
    intro j hj
    have := ha (j + 1) (by simpa using hj)
    rwa [show k + (j + 1) = k + 1 + j by omega] at this

/-- The `j`-th address of a block of at most 4096 bytes reads as the `j`-th byte. -/
theorem Memory.get_putBlock_inside {m : Memory} (h : m.wf = true) (base : Word) (k : Nat) (bs : List Byte)
    (hk : k + bs.length ≤ 4096) {j : Nat} (hj : j < bs.length) :
    (m.putBlock base k bs).get (effAddr base (k + j)).toNat = bs[j] := by
  induction bs generalizing m k j with
  | nil => simp at hj
  | cons b bs ih =>
    have hw := Memory.put_wf b (effAddr base k).isLt h
    simp only [List.length_cons] at hk hj
    cases j with
    | zero =>
      rw [Memory.putBlock, Memory.get_putBlock_outside hw, Memory.get_put h]
      · simp
      · intro i hi e
        have := effAddr_inj (base := base) (j := k + 0) (k := k + 1 + i) (by omega) (by omega) (BitVec.eq_of_toNat_eq e)
        omega
    | succ j =>
      have := ih hw (k + 1) (by omega) (j := j) (by omega)
      rw [Memory.putBlock, show k + (j + 1) = k + 1 + j by omega, this]
      rfl

/-! ### The same, of a state -/

theorem State.readByte_writeByte {s : State} (h : s.mem.wf = true) (a b : Addr) (x : Byte) :
    (s.writeByte a x).readByte b = if b = a then x else s.readByte b := by
  have := Memory.get_put h a.toNat b.toNat x
  simpa [State.readByte, State.writeByte, BitVec.toNat_inj] using this

theorem State.readByte_writeBlock_outside {s : State} (h : s.mem.wf = true) (base : Word) (bs : List Byte) {a : Addr}
    (ha : ∀ j < bs.length, a ≠ effAddr base j) : (s.writeBlock base bs).readByte a = s.readByte a :=
  Memory.get_putBlock_outside h base 0 bs fun j hj e => ha j hj (by
    rw [Nat.zero_add] at e; exact BitVec.eq_of_toNat_eq e)

theorem State.readByte_writeBlock_inside {s : State} (h : s.mem.wf = true) (base : Word) (bs : List Byte)
    (hl : bs.length ≤ 4096) {j : Nat} (hj : j < bs.length) :
    (s.writeBlock base bs).readByte (effAddr base j) = bs[j] := by
  have := Memory.get_putBlock_inside h base 0 bs (by omega) hj
  rwa [Nat.zero_add] at this

end Sys2Proof.Machine
end

