-- ==== Sys2Proof/Laws/State.lean ====
section
/-! SUPPORT. One lemma per field per update of State, so that no later proof unfolds a record update: what an update
leaves as it was (the three reads of a register, a byte and a pixel too) and what it writes. -/

namespace Sys2Proof.Machine

variable (s : State)

/-! ### `writeV` -/

@[simp] theorem State.writeV_mem (r : Reg) (b : Byte) : (s.writeV r b).mem = s.mem := rfl
@[simp] theorem State.writeV_i (r : Reg) (b : Byte) : (s.writeV r b).i = s.i := rfl
@[simp] theorem State.writeV_pc (r : Reg) (b : Byte) : (s.writeV r b).pc = s.pc := rfl
@[simp] theorem State.writeV_stack (r : Reg) (b : Byte) : (s.writeV r b).stack = s.stack := rfl
@[simp] theorem State.writeV_sp (r : Reg) (b : Byte) : (s.writeV r b).sp = s.sp := rfl
@[simp] theorem State.writeV_disp (r : Reg) (b : Byte) : (s.writeV r b).disp = s.disp := rfl
@[simp] theorem State.writeV_dt (r : Reg) (b : Byte) : (s.writeV r b).dt = s.dt := rfl
@[simp] theorem State.writeV_st (r : Reg) (b : Byte) : (s.writeV r b).st = s.st := rfl
@[simp] theorem State.writeV_terminate (r : Reg) (b : Byte) : (s.writeV r b).terminate = s.terminate := rfl
@[simp] theorem State.writeV_fault (r : Reg) (b : Byte) : (s.writeV r b).fault = s.fault := rfl
@[simp] theorem State.writeV_keyWait (r : Reg) (b : Byte) : (s.writeV r b).keyWait = s.keyWait := rfl
@[simp] theorem State.writeV_ports (r : Reg) (b : Byte) : (s.writeV r b).ports = s.ports := rfl
@[simp] theorem State.writeV_script (r : Reg) (b : Byte) : (s.writeV r b).script = s.script := rfl
@[simp] theorem State.writeV_drawn (r : Reg) (b : Byte) : (s.writeV r b).drawn = s.drawn := rfl
@[simp] theorem State.writeV_v (r : Reg) (b : Byte) : (s.writeV r b).v = s.v.set r.val b := rfl
@[simp] theorem State.writeV_readByte (r : Reg) (b : Byte) (q : Addr) : (s.writeV r b).readByte q = s.readByte q := rfl
@[simp] theorem State.writeV_pixel (r : Reg) (b : Byte) (q : Fin 32) (p : Fin 64) : (s.writeV r b).pixel q p = s.pixel q p := rfl

/-! ### `writeResultFlag` -/

@[simp] theorem State.writeResultFlag_mem (x : Reg) (b : Byte) (f : Bool) : (s.writeResultFlag x b f).mem = s.mem := rfl
@[simp] theorem State.writeResultFlag_i (x : Reg) (b : Byte) (f : Bool) : (s.writeResultFlag x b f).i = s.i := rfl
@[simp] theorem State.writeResultFlag_pc (x : Reg) (b : Byte) (f : Bool) : (s.writeResultFlag x b f).pc = s.pc := rfl
@[simp] theorem State.writeResultFlag_stack (x : Reg) (b : Byte) (f : Bool) : (s.writeResultFlag x b f).stack = s.stack := rfl
@[simp] theorem State.writeResultFlag_sp (x : Reg) (b : Byte) (f : Bool) : (s.writeResultFlag x b f).sp = s.sp := rfl
@[simp] theorem State.writeResultFlag_disp (x : Reg) (b : Byte) (f : Bool) : (s.writeResultFlag x b f).disp = s.disp := rfl
@[simp] theorem State.writeResultFlag_dt (x : Reg) (b : Byte) (f : Bool) : (s.writeResultFlag x b f).dt = s.dt := rfl
@[simp] theorem State.writeResultFlag_st (x : Reg) (b : Byte) (f : Bool) : (s.writeResultFlag x b f).st = s.st := rfl
@[simp] theorem State.writeResultFlag_terminate (x : Reg) (b : Byte) (f : Bool) : (s.writeResultFlag x b f).terminate = s.terminate := rfl
@[simp] theorem State.writeResultFlag_fault (x : Reg) (b : Byte) (f : Bool) : (s.writeResultFlag x b f).fault = s.fault := rfl
@[simp] theorem State.writeResultFlag_keyWait (x : Reg) (b : Byte) (f : Bool) : (s.writeResultFlag x b f).keyWait = s.keyWait := rfl
@[simp] theorem State.writeResultFlag_ports (x : Reg) (b : Byte) (f : Bool) : (s.writeResultFlag x b f).ports = s.ports := rfl
@[simp] theorem State.writeResultFlag_script (x : Reg) (b : Byte) (f : Bool) : (s.writeResultFlag x b f).script = s.script := rfl
@[simp] theorem State.writeResultFlag_drawn (x : Reg) (b : Byte) (f : Bool) : (s.writeResultFlag x b f).drawn = s.drawn := rfl
@[simp] theorem State.writeResultFlag_readByte (x : Reg) (b : Byte) (f : Bool) (q : Addr) : (s.writeResultFlag x b f).readByte q = s.readByte q := rfl
@[simp] theorem State.writeResultFlag_pixel (x : Reg) (b : Byte) (f : Bool) (q : Fin 32) (p : Fin 64) : (s.writeResultFlag x b f).pixel q p = s.pixel q p := rfl

/-! ### `loadRegBlock` -/

@[simp] theorem State.loadRegBlock_mem (bs : List Byte) : (s.loadRegBlock bs).mem = s.mem := rfl
@[simp] theorem State.loadRegBlock_i (bs : List Byte) : (s.loadRegBlock bs).i = s.i := rfl
@[simp] theorem State.loadRegBlock_pc (bs : List Byte) : (s.loadRegBlock bs).pc = s.pc := rfl
@[simp] theorem State.loadRegBlock_stack (bs : List Byte) : (s.loadRegBlock bs).stack = s.stack := rfl
@[simp] theorem State.loadRegBlock_sp (bs : List Byte) : (s.loadRegBlock bs).sp = s.sp := rfl
@[simp] theorem State.loadRegBlock_disp (bs : List Byte) : (s.loadRegBlock bs).disp = s.disp := rfl
@[simp] theorem State.loadRegBlock_dt (bs : List Byte) : (s.loadRegBlock bs).dt = s.dt := rfl
@[simp] theorem State.loadRegBlock_st (bs : List Byte) : (s.loadRegBlock bs).st = s.st := rfl
@[simp] theorem State.loadRegBlock_terminate (bs : List Byte) : (s.loadRegBlock bs).terminate = s.terminate := rfl
@[simp] theorem State.loadRegBlock_fault (bs : List Byte) : (s.loadRegBlock bs).fault = s.fault := rfl
@[simp] theorem State.loadRegBlock_keyWait (bs : List Byte) : (s.loadRegBlock bs).keyWait = s.keyWait := rfl
@[simp] theorem State.loadRegBlock_ports (bs : List Byte) : (s.loadRegBlock bs).ports = s.ports := rfl
@[simp] theorem State.loadRegBlock_script (bs : List Byte) : (s.loadRegBlock bs).script = s.script := rfl
@[simp] theorem State.loadRegBlock_drawn (bs : List Byte) : (s.loadRegBlock bs).drawn = s.drawn := rfl
@[simp] theorem State.loadRegBlock_v (bs : List Byte) : (s.loadRegBlock bs).v = RegFile.load s.v 0 bs := rfl
@[simp] theorem State.loadRegBlock_readByte (bs : List Byte) (q : Addr) : (s.loadRegBlock bs).readByte q = s.readByte q := rfl
@[simp] theorem State.loadRegBlock_pixel (bs : List Byte) (q : Fin 32) (p : Fin 64) : (s.loadRegBlock bs).pixel q p = s.pixel q p := rfl

/-! ### `writeByte` -/

@[simp] theorem State.writeByte_v (a : Addr) (b : Byte) : (s.writeByte a b).v = s.v := rfl
@[simp] theorem State.writeByte_i (a : Addr) (b : Byte) : (s.writeByte a b).i = s.i := rfl
@[simp] theorem State.writeByte_pc (a : Addr) (b : Byte) : (s.writeByte a b).pc = s.pc := rfl
@[simp] theorem State.writeByte_stack (a : Addr) (b : Byte) : (s.writeByte a b).stack = s.stack := rfl
@[simp] theorem State.writeByte_sp (a : Addr) (b : Byte) : (s.writeByte a b).sp = s.sp := rfl
@[simp] theorem State.writeByte_disp (a : Addr) (b : Byte) : (s.writeByte a b).disp = s.disp := rfl
@[simp] theorem State.writeByte_dt (a : Addr) (b : Byte) : (s.writeByte a b).dt = s.dt := rfl
@[simp] theorem State.writeByte_st (a : Addr) (b : Byte) : (s.writeByte a b).st = s.st := rfl
@[simp] theorem State.writeByte_terminate (a : Addr) (b : Byte) : (s.writeByte a b).terminate = s.terminate := rfl
@[simp] theorem State.writeByte_fault (a : Addr) (b : Byte) : (s.writeByte a b).fault = s.fault := rfl
@[simp] theorem State.writeByte_keyWait (a : Addr) (b : Byte) : (s.writeByte a b).keyWait = s.keyWait := rfl
@[simp] theorem State.writeByte_ports (a : Addr) (b : Byte) : (s.writeByte a b).ports = s.ports := rfl
@[simp] theorem State.writeByte_script (a : Addr) (b : Byte) : (s.writeByte a b).script = s.script := rfl
@[simp] theorem State.writeByte_drawn (a : Addr) (b : Byte) : (s.writeByte a b).drawn = s.drawn := rfl
@[simp] theorem State.writeByte_mem (a : Addr) (b : Byte) : (s.writeByte a b).mem = s.mem.put a.toNat b := rfl
@[simp] theorem State.writeByte_readV (a : Addr) (b : Byte) (q : Reg) : (s.writeByte a b).readV q = s.readV q := rfl
@[simp] theorem State.writeByte_pixel (a : Addr) (b : Byte) (q : Fin 32) (p : Fin 64) : (s.writeByte a b).pixel q p = s.pixel q p := rfl

/-! ### `writeBlock` -/

@[simp] theorem State.writeBlock_v (w : Word) (bs : List Byte) : (s.writeBlock w bs).v = s.v := rfl
@[simp] theorem State.writeBlock_i (w : Word) (bs : List Byte) : (s.writeBlock w bs).i = s.i := rfl
@[simp] theorem State.writeBlock_pc (w : Word) (bs : List Byte) : (s.writeBlock w bs).pc = s.pc := rfl
@[simp] theorem State.writeBlock_stack (w : Word) (bs : List Byte) : (s.writeBlock w bs).stack = s.stack := rfl
@[simp] theorem State.writeBlock_sp (w : Word) (bs : List Byte) : (s.writeBlock w bs).sp = s.sp := rfl
@[simp] theorem State.writeBlock_disp (w : Word) (bs : List Byte) : (s.writeBlock w bs).disp = s.disp := rfl
@[simp] theorem State.writeBlock_dt (w : Word) (bs : List Byte) : (s.writeBlock w bs).dt = s.dt := rfl
@[simp] theorem State.writeBlock_st (w : Word) (bs : List Byte) : (s.writeBlock w bs).st = s.st := rfl
@[simp] theorem State.writeBlock_terminate (w : Word) (bs : List Byte) : (s.writeBlock w bs).terminate = s.terminate := rfl
@[simp] theorem State.writeBlock_fault (w : Word) (bs : List Byte) : (s.writeBlock w bs).fault = s.fault := rfl
@[simp] theorem State.writeBlock_keyWait (w : Word) (bs : List Byte) : (s.writeBlock w bs).keyWait = s.keyWait := rfl
@[simp] theorem State.writeBlock_ports (w : Word) (bs : List Byte) : (s.writeBlock w bs).ports = s.ports := rfl
@[simp] theorem State.writeBlock_script (w : Word) (bs : List Byte) : (s.writeBlock w bs).script = s.script := rfl
@[simp] theorem State.writeBlock_drawn (w : Word) (bs : List Byte) : (s.writeBlock w bs).drawn = s.drawn := rfl
@[simp] theorem State.writeBlock_mem (w : Word) (bs : List Byte) : (s.writeBlock w bs).mem = s.mem.putBlock w 0 bs := rfl
@[simp] theorem State.writeBlock_readV (w : Word) (bs : List Byte) (q : Reg) : (s.writeBlock w bs).readV q = s.readV q := rfl
@[simp] theorem State.writeBlock_pixel (w : Word) (bs : List Byte) (q : Fin 32) (p : Fin 64) : (s.writeBlock w bs).pixel q p = s.pixel q p := rfl

/-! ### `setPc` -/

@[simp] theorem State.setPc_mem (w : Word) : (s.setPc w).mem = s.mem := rfl
@[simp] theorem State.setPc_v (w : Word) : (s.setPc w).v = s.v := rfl
@[simp] theorem State.setPc_i (w : Word) : (s.setPc w).i = s.i := rfl
@[simp] theorem State.setPc_stack (w : Word) : (s.setPc w).stack = s.stack := rfl
@[simp] theorem State.setPc_sp (w : Word) : (s.setPc w).sp = s.sp := rfl
@[simp] theorem State.setPc_disp (w : Word) : (s.setPc w).disp = s.disp := rfl
@[simp] theorem State.setPc_dt (w : Word) : (s.setPc w).dt = s.dt := rfl
@[simp] theorem State.setPc_st (w : Word) : (s.setPc w).st = s.st := rfl
@[simp] theorem State.setPc_terminate (w : Word) : (s.setPc w).terminate = s.terminate := rfl
@[simp] theorem State.setPc_fault (w : Word) : (s.setPc w).fault = s.fault := rfl
@[simp] theorem State.setPc_keyWait (w : Word) : (s.setPc w).keyWait = s.keyWait := rfl
@[simp] theorem State.setPc_ports (w : Word) : (s.setPc w).ports = s.ports := rfl
@[simp] theorem State.setPc_script (w : Word) : (s.setPc w).script = s.script := rfl
@[simp] theorem State.setPc_drawn (w : Word) : (s.setPc w).drawn = s.drawn := rfl
@[simp] theorem State.setPc_pc (w : Word) : (s.setPc w).pc = w := rfl
@[simp] theorem State.setPc_readV (w : Word) (q : Reg) : (s.setPc w).readV q = s.readV q := rfl
@[simp] theorem State.setPc_readByte (w : Word) (q : Addr) : (s.setPc w).readByte q = s.readByte q := rfl
@[simp] theorem State.setPc_pixel (w : Word) (q : Fin 32) (p : Fin 64) : (s.setPc w).pixel q p = s.pixel q p := rfl

/-! ### `skipIf` -/

@[simp] theorem State.skipIf_mem (c : Bool) : (s.skipIf c).mem = s.mem := rfl
@[simp] theorem State.skipIf_v (c : Bool) : (s.skipIf c).v = s.v := rfl
@[simp] theorem State.skipIf_i (c : Bool) : (s.skipIf c).i = s.i := rfl
@[simp] theorem State.skipIf_stack (c : Bool) : (s.skipIf c).stack = s.stack := rfl
@[simp] theorem State.skipIf_sp (c : Bool) : (s.skipIf c).sp = s.sp := rfl
@[simp] theorem State.skipIf_disp (c : Bool) : (s.skipIf c).disp = s.disp := rfl
@[simp] theorem State.skipIf_dt (c : Bool) : (s.skipIf c).dt = s.dt := rfl
@[simp] theorem State.skipIf_st (c : Bool) : (s.skipIf c).st = s.st := rfl
@[simp] theorem State.skipIf_terminate (c : Bool) : (s.skipIf c).terminate = s.terminate := rfl
@[simp] theorem State.skipIf_fault (c : Bool) : (s.skipIf c).fault = s.fault := rfl
@[simp] theorem State.skipIf_keyWait (c : Bool) : (s.skipIf c).keyWait = s.keyWait := rfl
@[simp] theorem State.skipIf_ports (c : Bool) : (s.skipIf c).ports = s.ports := rfl
@[simp] theorem State.skipIf_script (c : Bool) : (s.skipIf c).script = s.script := rfl
@[simp] theorem State.skipIf_drawn (c : Bool) : (s.skipIf c).drawn = s.drawn := rfl
@[simp] theorem State.skipIf_pc (c : Bool) : (s.skipIf c).pc = if c then advance s.pc else s.pc := rfl
@[simp] theorem State.skipIf_readV (c : Bool) (q : Reg) : (s.skipIf c).readV q = s.readV q := rfl
@[simp] theorem State.skipIf_readByte (c : Bool) (q : Addr) : (s.skipIf c).readByte q = s.readByte q := rfl
@[simp] theorem State.skipIf_pixel (c : Bool) (q : Fin 32) (p : Fin 64) : (s.skipIf c).pixel q p = s.pixel q p := rfl

/-! ### `advancePc` -/

@[simp] theorem State.advancePc_mem : (s.advancePc).mem = s.mem := rfl
@[simp] theorem State.advancePc_v : (s.advancePc).v = s.v := rfl
@[simp] theorem State.advancePc_i : (s.advancePc).i = s.i := rfl
@[simp] theorem State.advancePc_stack : (s.advancePc).stack = s.stack := rfl
@[simp] theorem State.advancePc_sp : (s.advancePc).sp = s.sp := rfl
@[simp] theorem State.advancePc_disp : (s.advancePc).disp = s.disp := rfl
@[simp] theorem State.advancePc_dt : (s.advancePc).dt = s.dt := rfl
@[simp] theorem State.advancePc_st : (s.advancePc).st = s.st := rfl
@[simp] theorem State.advancePc_terminate : (s.advancePc).terminate = s.terminate := rfl
@[simp] theorem State.advancePc_fault : (s.advancePc).fault = s.fault := rfl
@[simp] theorem State.advancePc_keyWait : (s.advancePc).keyWait = s.keyWait := rfl
@[simp] theorem State.advancePc_ports : (s.advancePc).ports = s.ports := rfl
@[simp] theorem State.advancePc_script : (s.advancePc).script = s.script := rfl
@[simp] theorem State.advancePc_drawn : (s.advancePc).drawn = s.drawn := rfl
@[simp] theorem State.advancePc_pc : (s.advancePc).pc = advance s.pc := rfl
@[simp] theorem State.advancePc_readV (q : Reg) : (s.advancePc).readV q = s.readV q := rfl
@[simp] theorem State.advancePc_readByte (q : Addr) : (s.advancePc).readByte q = s.readByte q := rfl
@[simp] theorem State.advancePc_pixel (q : Fin 32) (p : Fin 64) : (s.advancePc).pixel q p = s.pixel q p := rfl

/-! ### `setI` -/

@[simp] theorem State.setI_mem (w : Word) : (s.setI w).mem = s.mem := rfl
@[simp] theorem State.setI_v (w : Word) : (s.setI w).v = s.v := rfl
@[simp] theorem State.setI_pc (w : Word) : (s.setI w).pc = s.pc := rfl
@[simp] theorem State.setI_stack (w : Word) : (s.setI w).stack = s.stack := rfl
@[simp] theorem State.setI_sp (w : Word) : (s.setI w).sp = s.sp := rfl
@[simp] theorem State.setI_disp (w : Word) : (s.setI w).disp = s.disp := rfl
@[simp] theorem State.setI_dt (w : Word) : (s.setI w).dt = s.dt := rfl
@[simp] theorem State.setI_st (w : Word) : (s.setI w).st = s.st := rfl
@[simp] theorem State.setI_terminate (w : Word) : (s.setI w).terminate = s.terminate := rfl
@[simp] theorem State.setI_fault (w : Word) : (s.setI w).fault = s.fault := rfl
@[simp] theorem State.setI_keyWait (w : Word) : (s.setI w).keyWait = s.keyWait := rfl
@[simp] theorem State.setI_ports (w : Word) : (s.setI w).ports = s.ports := rfl
@[simp] theorem State.setI_script (w : Word) : (s.setI w).script = s.script := rfl
@[simp] theorem State.setI_drawn (w : Word) : (s.setI w).drawn = s.drawn := rfl
@[simp] theorem State.setI_i (w : Word) : (s.setI w).i = w := rfl
@[simp] theorem State.setI_readV (w : Word) (q : Reg) : (s.setI w).readV q = s.readV q := rfl
@[simp] theorem State.setI_readByte (w : Word) (q : Addr) : (s.setI w).readByte q = s.readByte q := rfl
@[simp] theorem State.setI_pixel (w : Word) (q : Fin 32) (p : Fin 64) : (s.setI w).pixel q p = s.pixel q p := rfl

/-! ### `setDt` -/

@[simp] theorem State.setDt_mem (b : Byte) : (s.setDt b).mem = s.mem := rfl
@[simp] theorem State.setDt_v (b : Byte) : (s.setDt b).v = s.v := rfl
@[simp] theorem State.setDt_i (b : Byte) : (s.setDt b).i = s.i := rfl
@[simp] theorem State.setDt_pc (b : Byte) : (s.setDt b).pc = s.pc := rfl
@[simp] theorem State.setDt_stack (b : Byte) : (s.setDt b).stack = s.stack := rfl
@[simp] theorem State.setDt_sp (b : Byte) : (s.setDt b).sp = s.sp := rfl
@[simp] theorem State.setDt_disp (b : Byte) : (s.setDt b).disp = s.disp := rfl
@[simp] theorem State.setDt_st (b : Byte) : (s.setDt b).st = s.st := rfl
@[simp] theorem State.setDt_terminate (b : Byte) : (s.setDt b).terminate = s.terminate := rfl
@[simp] theorem State.setDt_fault (b : Byte) : (s.setDt b).fault = s.fault := rfl
@[simp] theorem State.setDt_keyWait (b : Byte) : (s.setDt b).keyWait = s.keyWait := rfl
@[simp] theorem State.setDt_ports (b : Byte) : (s.setDt b).ports = s.ports := rfl
@[simp] theorem State.setDt_script (b : Byte) : (s.setDt b).script = s.script := rfl
@[simp] theorem State.setDt_drawn (b : Byte) : (s.setDt b).drawn = s.drawn := rfl
@[simp] theorem State.setDt_dt (b : Byte) : (s.setDt b).dt = b := rfl
@[simp] theorem State.setDt_readV (b : Byte) (q : Reg) : (s.setDt b).readV q = s.readV q := rfl
@[simp] theorem State.setDt_readByte (b : Byte) (q : Addr) : (s.setDt b).readByte q = s.readByte q := rfl
@[simp] theorem State.setDt_pixel (b : Byte) (q : Fin 32) (p : Fin 64) : (s.setDt b).pixel q p = s.pixel q p := rfl

/-! ### `setSt` -/

@[simp] theorem State.setSt_mem (b : Byte) : (s.setSt b).mem = s.mem := rfl
@[simp] theorem State.setSt_v (b : Byte) : (s.setSt b).v = s.v := rfl
@[simp] theorem State.setSt_i (b : Byte) : (s.setSt b).i = s.i := rfl
@[simp] theorem State.setSt_pc (b : Byte) : (s.setSt b).pc = s.pc := rfl
@[simp] theorem State.setSt_stack (b : Byte) : (s.setSt b).stack = s.stack := rfl
@[simp] theorem State.setSt_sp (b : Byte) : (s.setSt b).sp = s.sp := rfl
@[simp] theorem State.setSt_disp (b : Byte) : (s.setSt b).disp = s.disp := rfl
@[simp] theorem State.setSt_dt (b : Byte) : (s.setSt b).dt = s.dt := rfl
@[simp] theorem State.setSt_terminate (b : Byte) : (s.setSt b).terminate = s.terminate := rfl
@[simp] theorem State.setSt_fault (b : Byte) : (s.setSt b).fault = s.fault := rfl
@[simp] theorem State.setSt_keyWait (b : Byte) : (s.setSt b).keyWait = s.keyWait := rfl
@[simp] theorem State.setSt_ports (b : Byte) : (s.setSt b).ports = s.ports := rfl
@[simp] theorem State.setSt_script (b : Byte) : (s.setSt b).script = s.script := rfl
@[simp] theorem State.setSt_drawn (b : Byte) : (s.setSt b).drawn = s.drawn := rfl
@[simp] theorem State.setSt_st (b : Byte) : (s.setSt b).st = b := rfl
@[simp] theorem State.setSt_readV (b : Byte) (q : Reg) : (s.setSt b).readV q = s.readV q := rfl
@[simp] theorem State.setSt_readByte (b : Byte) (q : Addr) : (s.setSt b).readByte q = s.readByte q := rfl
@[simp] theorem State.setSt_pixel (b : Byte) (q : Fin 32) (p : Fin 64) : (s.setSt b).pixel q p = s.pixel q p := rfl

/-! ### `tick` -/

@[simp] theorem State.tick_mem : (s.tick).mem = s.mem := rfl
@[simp] theorem State.tick_v : (s.tick).v = s.v := rfl
@[simp] theorem State.tick_i : (s.tick).i = s.i := rfl
@[simp] theorem State.tick_pc : (s.tick).pc = s.pc := rfl
@[simp] theorem State.tick_stack : (s.tick).stack = s.stack := rfl
@[simp] theorem State.tick_sp : (s.tick).sp = s.sp := rfl
@[simp] theorem State.tick_disp : (s.tick).disp = s.disp := rfl
@[simp] theorem State.tick_terminate : (s.tick).terminate = s.terminate := rfl
@[simp] theorem State.tick_fault : (s.tick).fault = s.fault := rfl
@[simp] theorem State.tick_keyWait : (s.tick).keyWait = s.keyWait := rfl
@[simp] theorem State.tick_ports : (s.tick).ports = s.ports := rfl
@[simp] theorem State.tick_script : (s.tick).script = s.script := rfl
@[simp] theorem State.tick_drawn : (s.tick).drawn = s.drawn := rfl
@[simp] theorem State.tick_dt : (s.tick).dt = timerTick s.dt := rfl
@[simp] theorem State.tick_st : (s.tick).st = timerTick s.st := rfl
@[simp] theorem State.tick_readV (q : Reg) : (s.tick).readV q = s.readV q := rfl
@[simp] theorem State.tick_readByte (q : Addr) : (s.tick).readByte q = s.readByte q := rfl
@[simp] theorem State.tick_pixel (q : Fin 32) (p : Fin 64) : (s.tick).pixel q p = s.pixel q p := rfl

/-! ### `ticks` -/

@[simp] theorem State.ticks_mem (n : Nat) : (s.ticks n).mem = s.mem := rfl
@[simp] theorem State.ticks_v (n : Nat) : (s.ticks n).v = s.v := rfl
@[simp] theorem State.ticks_i (n : Nat) : (s.ticks n).i = s.i := rfl
@[simp] theorem State.ticks_pc (n : Nat) : (s.ticks n).pc = s.pc := rfl
@[simp] theorem State.ticks_stack (n : Nat) : (s.ticks n).stack = s.stack := rfl
@[simp] theorem State.ticks_sp (n : Nat) : (s.ticks n).sp = s.sp := rfl
@[simp] theorem State.ticks_disp (n : Nat) : (s.ticks n).disp = s.disp := rfl
@[simp] theorem State.ticks_terminate (n : Nat) : (s.ticks n).terminate = s.terminate := rfl
@[simp] theorem State.ticks_fault (n : Nat) : (s.ticks n).fault = s.fault := rfl
@[simp] theorem State.ticks_keyWait (n : Nat) : (s.ticks n).keyWait = s.keyWait := rfl
@[simp] theorem State.ticks_ports (n : Nat) : (s.ticks n).ports = s.ports := rfl
@[simp] theorem State.ticks_script (n : Nat) : (s.ticks n).script = s.script := rfl
@[simp] theorem State.ticks_drawn (n : Nat) : (s.ticks n).drawn = s.drawn := rfl
@[simp] theorem State.ticks_dt (n : Nat) : (s.ticks n).dt = timerTicks n s.dt := rfl
@[simp] theorem State.ticks_st (n : Nat) : (s.ticks n).st = timerTicks n s.st := rfl
@[simp] theorem State.ticks_readV (n : Nat) (q : Reg) : (s.ticks n).readV q = s.readV q := rfl
@[simp] theorem State.ticks_readByte (n : Nat) (q : Addr) : (s.ticks n).readByte q = s.readByte q := rfl
@[simp] theorem State.ticks_pixel (n : Nat) (q : Fin 32) (p : Fin 64) : (s.ticks n).pixel q p = s.pixel q p := rfl

/-! ### `samplePorts` -/

@[simp] theorem State.samplePorts_mem : (s.samplePorts).mem = s.mem := rfl
@[simp] theorem State.samplePorts_v : (s.samplePorts).v = s.v := rfl
@[simp] theorem State.samplePorts_i : (s.samplePorts).i = s.i := rfl
@[simp] theorem State.samplePorts_pc : (s.samplePorts).pc = s.pc := rfl
@[simp] theorem State.samplePorts_stack : (s.samplePorts).stack = s.stack := rfl
@[simp] theorem State.samplePorts_sp : (s.samplePorts).sp = s.sp := rfl
@[simp] theorem State.samplePorts_disp : (s.samplePorts).disp = s.disp := rfl
@[simp] theorem State.samplePorts_dt : (s.samplePorts).dt = s.dt := rfl
@[simp] theorem State.samplePorts_st : (s.samplePorts).st = s.st := rfl
@[simp] theorem State.samplePorts_terminate : (s.samplePorts).terminate = s.terminate := rfl
@[simp] theorem State.samplePorts_fault : (s.samplePorts).fault = s.fault := rfl
@[simp] theorem State.samplePorts_keyWait : (s.samplePorts).keyWait = s.keyWait := rfl
@[simp] theorem State.samplePorts_ports : (s.samplePorts).ports = s.nextInput := rfl
@[simp] theorem State.samplePorts_script : (s.samplePorts).script = s.script.tail := rfl
@[simp] theorem State.samplePorts_readV (q : Reg) : (s.samplePorts).readV q = s.readV q := rfl
@[simp] theorem State.samplePorts_readByte (q : Addr) : (s.samplePorts).readByte q = s.readByte q := rfl
@[simp] theorem State.samplePorts_pixel (q : Fin 32) (p : Fin 64) : (s.samplePorts).pixel q p = s.pixel q p := rfl

/-! ### `hostTurn` -/

@[simp] theorem State.hostTurn_mem : (s.hostTurn).mem = s.mem := rfl
@[simp] theorem State.hostTurn_v : (s.hostTurn).v = s.v := rfl
@[simp] theorem State.hostTurn_i : (s.hostTurn).i = s.i := rfl
@[simp] theorem State.hostTurn_pc : (s.hostTurn).pc = s.pc := rfl
@[simp] theorem State.hostTurn_stack : (s.hostTurn).stack = s.stack := rfl
@[simp] theorem State.hostTurn_sp : (s.hostTurn).sp = s.sp := rfl
@[simp] theorem State.hostTurn_disp : (s.hostTurn).disp = s.disp := rfl
@[simp] theorem State.hostTurn_terminate : (s.hostTurn).terminate = s.terminate := rfl
@[simp] theorem State.hostTurn_fault : (s.hostTurn).fault = s.fault := rfl
@[simp] theorem State.hostTurn_keyWait : (s.hostTurn).keyWait = s.keyWait := rfl
@[simp] theorem State.hostTurn_ports : (s.hostTurn).ports = s.nextInput := rfl
@[simp] theorem State.hostTurn_script : (s.hostTurn).script = s.script.tail := rfl
@[simp] theorem State.hostTurn_dt : (s.hostTurn).dt = timerTicks s.nextInput.ticks s.dt := rfl
@[simp] theorem State.hostTurn_st : (s.hostTurn).st = timerTicks s.nextInput.ticks s.st := rfl
@[simp] theorem State.hostTurn_readV (q : Reg) : (s.hostTurn).readV q = s.readV q := rfl
@[simp] theorem State.hostTurn_readByte (q : Addr) : (s.hostTurn).readByte q = s.readByte q := rfl
@[simp] theorem State.hostTurn_pixel (q : Fin 32) (p : Fin 64) : (s.hostTurn).pixel q p = s.pixel q p := rfl

/-! ### `setKeyWait` -/

@[simp] theorem State.setKeyWait_mem (w : Option Reg) : (s.setKeyWait w).mem = s.mem := rfl
@[simp] theorem State.setKeyWait_v (w : Option Reg) : (s.setKeyWait w).v = s.v := rfl
@[simp] theorem State.setKeyWait_i (w : Option Reg) : (s.setKeyWait w).i = s.i := rfl
@[simp] theorem State.setKeyWait_pc (w : Option Reg) : (s.setKeyWait w).pc = s.pc := rfl
@[simp] theorem State.setKeyWait_stack (w : Option Reg) : (s.setKeyWait w).stack = s.stack := rfl
@[simp] theorem State.setKeyWait_sp (w : Option Reg) : (s.setKeyWait w).sp = s.sp := rfl
@[simp] theorem State.setKeyWait_disp (w : Option Reg) : (s.setKeyWait w).disp = s.disp := rfl
@[simp] theorem State.setKeyWait_dt (w : Option Reg) : (s.setKeyWait w).dt = s.dt := rfl
@[simp] theorem State.setKeyWait_st (w : Option Reg) : (s.setKeyWait w).st = s.st := rfl
@[simp] theorem State.setKeyWait_terminate (w : Option Reg) : (s.setKeyWait w).terminate = s.terminate := rfl
@[simp] theorem State.setKeyWait_fault (w : Option Reg) : (s.setKeyWait w).fault = s.fault := rfl
@[simp] theorem State.setKeyWait_ports (w : Option Reg) : (s.setKeyWait w).ports = s.ports := rfl
@[simp] theorem State.setKeyWait_script (w : Option Reg) : (s.setKeyWait w).script = s.script := rfl
@[simp] theorem State.setKeyWait_drawn (w : Option Reg) : (s.setKeyWait w).drawn = s.drawn := rfl
@[simp] theorem State.setKeyWait_keyWait (w : Option Reg) : (s.setKeyWait w).keyWait = w := rfl
@[simp] theorem State.setKeyWait_readV (w : Option Reg) (q : Reg) : (s.setKeyWait w).readV q = s.readV q := rfl
@[simp] theorem State.setKeyWait_readByte (w : Option Reg) (q : Addr) : (s.setKeyWait w).readByte q = s.readByte q := rfl
@[simp] theorem State.setKeyWait_pixel (w : Option Reg) (q : Fin 32) (p : Fin 64) : (s.setKeyWait w).pixel q p = s.pixel q p := rfl

/-! ### `completeKeyWait` -/

@[simp] theorem State.completeKeyWait_mem (x : Reg) (k : Key) : (s.completeKeyWait x k).mem = s.mem := rfl
@[simp] theorem State.completeKeyWait_i (x : Reg) (k : Key) : (s.completeKeyWait x k).i = s.i := rfl
@[simp] theorem State.completeKeyWait_pc (x : Reg) (k : Key) : (s.completeKeyWait x k).pc = s.pc := rfl
@[simp] theorem State.completeKeyWait_stack (x : Reg) (k : Key) : (s.completeKeyWait x k).stack = s.stack := rfl
@[simp] theorem State.completeKeyWait_sp (x : Reg) (k : Key) : (s.completeKeyWait x k).sp = s.sp := rfl
@[simp] theorem State.completeKeyWait_disp (x : Reg) (k : Key) : (s.completeKeyWait x k).disp = s.disp := rfl
@[simp] theorem State.completeKeyWait_dt (x : Reg) (k : Key) : (s.completeKeyWait x k).dt = s.dt := rfl
@[simp] theorem State.completeKeyWait_st (x : Reg) (k : Key) : (s.completeKeyWait x k).st = s.st := rfl
@[simp] theorem State.completeKeyWait_terminate (x : Reg) (k : Key) : (s.completeKeyWait x k).terminate = s.terminate := rfl
@[simp] theorem State.completeKeyWait_fault (x : Reg) (k : Key) : (s.completeKeyWait x k).fault = s.fault := rfl
@[simp] theorem State.completeKeyWait_ports (x : Reg) (k : Key) : (s.completeKeyWait x k).ports = s.ports := rfl
@[simp] theorem State.completeKeyWait_script (x : Reg) (k : Key) : (s.completeKeyWait x k).script = s.script := rfl
@[simp] theorem State.completeKeyWait_drawn (x : Reg) (k : Key) : (s.completeKeyWait x k).drawn = s.drawn := rfl
@[simp] theorem State.completeKeyWait_keyWait (x : Reg) (k : Key) : (s.completeKeyWait x k).keyWait = none := rfl
@[simp] theorem State.completeKeyWait_readByte (x : Reg) (k : Key) (q : Addr) : (s.completeKeyWait x k).readByte q = s.readByte q := rfl
@[simp] theorem State.completeKeyWait_pixel (x : Reg) (k : Key) (q : Fin 32) (p : Fin 64) : (s.completeKeyWait x k).pixel q p = s.pixel q p := rfl

/-! ### `present` -/

@[simp] theorem State.present_mem (h : HostInput) : (s.present h).mem = s.mem := rfl
@[simp] theorem State.present_v (h : HostInput) : (s.present h).v = s.v := rfl
@[simp] theorem State.present_i (h : HostInput) : (s.present h).i = s.i := rfl
@[simp] theorem State.present_pc (h : HostInput) : (s.present h).pc = s.pc := rfl
@[simp] theorem State.present_stack (h : HostInput) : (s.present h).stack = s.stack := rfl
@[simp] theorem State.present_sp (h : HostInput) : (s.present h).sp = s.sp := rfl
@[simp] theorem State.present_disp (h : HostInput) : (s.present h).disp = s.disp := rfl
@[simp] theorem State.present_dt (h : HostInput) : (s.present h).dt = s.dt := rfl
@[simp] theorem State.present_st (h : HostInput) : (s.present h).st = s.st := rfl
@[simp] theorem State.present_terminate (h : HostInput) : (s.present h).terminate = s.terminate := rfl
@[simp] theorem State.present_fault (h : HostInput) : (s.present h).fault = s.fault := rfl
@[simp] theorem State.present_keyWait (h : HostInput) : (s.present h).keyWait = s.keyWait := rfl
@[simp] theorem State.present_ports (h : HostInput) : (s.present h).ports = s.ports := rfl
@[simp] theorem State.present_drawn (h : HostInput) : (s.present h).drawn = s.drawn := rfl
@[simp] theorem State.present_script (h : HostInput) : (s.present h).script = h :: s.script.tail := rfl
@[simp] theorem State.present_nextInput (h : HostInput) : (s.present h).nextInput = h := rfl
@[simp] theorem State.present_readV (h : HostInput) (q : Reg) : (s.present h).readV q = s.readV q := rfl
@[simp] theorem State.present_readByte (h : HostInput) (q : Addr) : (s.present h).readByte q = s.readByte q := rfl
@[simp] theorem State.present_pixel (h : HostInput) (q : Fin 32) (p : Fin 64) : (s.present h).pixel q p = s.pixel q p := rfl

/-! ### `haltTerminate` -/

@[simp] theorem State.haltTerminate_mem : (s.haltTerminate).mem = s.mem := rfl
@[simp] theorem State.haltTerminate_v : (s.haltTerminate).v = s.v := rfl
@[simp] theorem State.haltTerminate_i : (s.haltTerminate).i = s.i := rfl
@[simp] theorem State.haltTerminate_pc : (s.haltTerminate).pc = s.pc := rfl
@[simp] theorem State.haltTerminate_stack : (s.haltTerminate).stack = s.stack := rfl
@[simp] theorem State.haltTerminate_sp : (s.haltTerminate).sp = s.sp := rfl
@[simp] theorem State.haltTerminate_disp : (s.haltTerminate).disp = s.disp := rfl
@[simp] theorem State.haltTerminate_dt : (s.haltTerminate).dt = s.dt := rfl
@[simp] theorem State.haltTerminate_st : (s.haltTerminate).st = s.st := rfl
@[simp] theorem State.haltTerminate_fault : (s.haltTerminate).fault = s.fault := rfl
@[simp] theorem State.haltTerminate_keyWait : (s.haltTerminate).keyWait = s.keyWait := rfl
@[simp] theorem State.haltTerminate_ports : (s.haltTerminate).ports = s.ports := rfl
@[simp] theorem State.haltTerminate_script : (s.haltTerminate).script = s.script := rfl
@[simp] theorem State.haltTerminate_drawn : (s.haltTerminate).drawn = s.drawn := rfl
@[simp] theorem State.haltTerminate_terminate : (s.haltTerminate).terminate = true := rfl
@[simp] theorem State.haltTerminate_readV (q : Reg) : (s.haltTerminate).readV q = s.readV q := rfl
@[simp] theorem State.haltTerminate_readByte (q : Addr) : (s.haltTerminate).readByte q = s.readByte q := rfl
@[simp] theorem State.haltTerminate_pixel (q : Fin 32) (p : Fin 64) : (s.haltTerminate).pixel q p = s.pixel q p := rfl

/-! ### `raiseStackOverflow` -/

@[simp] theorem State.raiseStackOverflow_mem : (s.raiseStackOverflow).mem = s.mem := rfl
@[simp] theorem State.raiseStackOverflow_v : (s.raiseStackOverflow).v = s.v := rfl
@[simp] theorem State.raiseStackOverflow_i : (s.raiseStackOverflow).i = s.i := rfl
@[simp] theorem State.raiseStackOverflow_pc : (s.raiseStackOverflow).pc = s.pc := rfl
@[simp] theorem State.raiseStackOverflow_stack : (s.raiseStackOverflow).stack = s.stack := rfl
@[simp] theorem State.raiseStackOverflow_sp : (s.raiseStackOverflow).sp = s.sp := rfl
@[simp] theorem State.raiseStackOverflow_disp : (s.raiseStackOverflow).disp = s.disp := rfl
@[simp] theorem State.raiseStackOverflow_dt : (s.raiseStackOverflow).dt = s.dt := rfl
@[simp] theorem State.raiseStackOverflow_st : (s.raiseStackOverflow).st = s.st := rfl
@[simp] theorem State.raiseStackOverflow_terminate : (s.raiseStackOverflow).terminate = s.terminate := rfl
@[simp] theorem State.raiseStackOverflow_keyWait : (s.raiseStackOverflow).keyWait = s.keyWait := rfl
@[simp] theorem State.raiseStackOverflow_ports : (s.raiseStackOverflow).ports = s.ports := rfl
@[simp] theorem State.raiseStackOverflow_script : (s.raiseStackOverflow).script = s.script := rfl
@[simp] theorem State.raiseStackOverflow_drawn : (s.raiseStackOverflow).drawn = s.drawn := rfl
@[simp] theorem State.raiseStackOverflow_fault : (s.raiseStackOverflow).fault = .stackOverflow := rfl
@[simp] theorem State.raiseStackOverflow_readV (q : Reg) : (s.raiseStackOverflow).readV q = s.readV q := rfl
@[simp] theorem State.raiseStackOverflow_readByte (q : Addr) : (s.raiseStackOverflow).readByte q = s.readByte q := rfl
@[simp] theorem State.raiseStackOverflow_pixel (q : Fin 32) (p : Fin 64) : (s.raiseStackOverflow).pixel q p = s.pixel q p := rfl

/-! ### `clearDisplay` -/

@[simp] theorem State.clearDisplay_mem : (s.clearDisplay).mem = s.mem := rfl
@[simp] theorem State.clearDisplay_v : (s.clearDisplay).v = s.v := rfl
@[simp] theorem State.clearDisplay_i : (s.clearDisplay).i = s.i := rfl
@[simp] theorem State.clearDisplay_pc : (s.clearDisplay).pc = s.pc := rfl
@[simp] theorem State.clearDisplay_stack : (s.clearDisplay).stack = s.stack := rfl
@[simp] theorem State.clearDisplay_sp : (s.clearDisplay).sp = s.sp := rfl
@[simp] theorem State.clearDisplay_dt : (s.clearDisplay).dt = s.dt := rfl
@[simp] theorem State.clearDisplay_st : (s.clearDisplay).st = s.st := rfl
@[simp] theorem State.clearDisplay_terminate : (s.clearDisplay).terminate = s.terminate := rfl
@[simp] theorem State.clearDisplay_fault : (s.clearDisplay).fault = s.fault := rfl
@[simp] theorem State.clearDisplay_keyWait : (s.clearDisplay).keyWait = s.keyWait := rfl
@[simp] theorem State.clearDisplay_ports : (s.clearDisplay).ports = s.ports := rfl
@[simp] theorem State.clearDisplay_script : (s.clearDisplay).script = s.script := rfl
@[simp] theorem State.clearDisplay_drawn : (s.clearDisplay).drawn = s.drawn := rfl
@[simp] theorem State.clearDisplay_disp : (s.clearDisplay).disp = Vector.replicate 32 (Vector.replicate 64 false) := rfl
@[simp] theorem State.clearDisplay_readV (q : Reg) : (s.clearDisplay).readV q = s.readV q := rfl
@[simp] theorem State.clearDisplay_readByte (q : Addr) : (s.clearDisplay).readByte q = s.readByte q := rfl

/-! ### `drawSprite` -/

@[simp] theorem State.drawSprite_mem (cx cy : Nat) (bs : List Byte) : (s.drawSprite cx cy bs).mem = s.mem := rfl
@[simp] theorem State.drawSprite_i (cx cy : Nat) (bs : List Byte) : (s.drawSprite cx cy bs).i = s.i := rfl
@[simp] theorem State.drawSprite_pc (cx cy : Nat) (bs : List Byte) : (s.drawSprite cx cy bs).pc = s.pc := rfl
@[simp] theorem State.drawSprite_stack (cx cy : Nat) (bs : List Byte) : (s.drawSprite cx cy bs).stack = s.stack := rfl
@[simp] theorem State.drawSprite_sp (cx cy : Nat) (bs : List Byte) : (s.drawSprite cx cy bs).sp = s.sp := rfl
@[simp] theorem State.drawSprite_dt (cx cy : Nat) (bs : List Byte) : (s.drawSprite cx cy bs).dt = s.dt := rfl
@[simp] theorem State.drawSprite_st (cx cy : Nat) (bs : List Byte) : (s.drawSprite cx cy bs).st = s.st := rfl
@[simp] theorem State.drawSprite_terminate (cx cy : Nat) (bs : List Byte) : (s.drawSprite cx cy bs).terminate = s.terminate := rfl
@[simp] theorem State.drawSprite_fault (cx cy : Nat) (bs : List Byte) : (s.drawSprite cx cy bs).fault = s.fault := rfl
@[simp] theorem State.drawSprite_keyWait (cx cy : Nat) (bs : List Byte) : (s.drawSprite cx cy bs).keyWait = s.keyWait := rfl
@[simp] theorem State.drawSprite_ports (cx cy : Nat) (bs : List Byte) : (s.drawSprite cx cy bs).ports = s.ports := rfl
@[simp] theorem State.drawSprite_script (cx cy : Nat) (bs : List Byte) : (s.drawSprite cx cy bs).script = s.script := rfl
@[simp] theorem State.drawSprite_drawn (cx cy : Nat) (bs : List Byte) : (s.drawSprite cx cy bs).drawn = s.drawn := rfl
@[simp] theorem State.drawSprite_disp (cx cy : Nat) (bs : List Byte) : (s.drawSprite cx cy bs).disp = (drawRows cx cy bs (s.disp, false)).1 := rfl
@[simp] theorem State.drawSprite_readByte (cx cy : Nat) (bs : List Byte) (q : Addr) : (s.drawSprite cx cy bs).readByte q = s.readByte q := rfl

/-! ### `placeWord` -/

@[simp] theorem State.placeWord_v (w : Word) : (s.placeWord w).v = s.v := rfl
@[simp] theorem State.placeWord_i (w : Word) : (s.placeWord w).i = s.i := rfl
@[simp] theorem State.placeWord_pc (w : Word) : (s.placeWord w).pc = s.pc := rfl
@[simp] theorem State.placeWord_stack (w : Word) : (s.placeWord w).stack = s.stack := rfl
@[simp] theorem State.placeWord_sp (w : Word) : (s.placeWord w).sp = s.sp := rfl
@[simp] theorem State.placeWord_disp (w : Word) : (s.placeWord w).disp = s.disp := rfl
@[simp] theorem State.placeWord_dt (w : Word) : (s.placeWord w).dt = s.dt := rfl
@[simp] theorem State.placeWord_st (w : Word) : (s.placeWord w).st = s.st := rfl
@[simp] theorem State.placeWord_ports (w : Word) : (s.placeWord w).ports = s.ports := rfl
@[simp] theorem State.placeWord_script (w : Word) : (s.placeWord w).script = s.script := rfl
@[simp] theorem State.placeWord_drawn (w : Word) : (s.placeWord w).drawn = s.drawn := rfl
@[simp] theorem State.placeWord_terminate (w : Word) : (s.placeWord w).terminate = false := rfl
@[simp] theorem State.placeWord_fault (w : Word) : (s.placeWord w).fault = .none := rfl
@[simp] theorem State.placeWord_keyWait (w : Word) : (s.placeWord w).keyWait = none := rfl
@[simp] theorem State.placeWord_readV (w : Word) (q : Reg) : (s.placeWord w).readV q = s.readV q := rfl
@[simp] theorem State.placeWord_pixel (w : Word) (q : Fin 32) (p : Fin 64) : (s.placeWord w).pixel q p = s.pixel q p := rfl

/-! ### `pushAndGo` -/

@[simp] theorem State.pushAndGo_mem (w : Word) : (s.pushAndGo w).mem = s.mem := by unfold State.pushAndGo; split <;> rfl
@[simp] theorem State.pushAndGo_v (w : Word) : (s.pushAndGo w).v = s.v := by unfold State.pushAndGo; split <;> rfl
@[simp] theorem State.pushAndGo_i (w : Word) : (s.pushAndGo w).i = s.i := by unfold State.pushAndGo; split <;> rfl
@[simp] theorem State.pushAndGo_disp (w : Word) : (s.pushAndGo w).disp = s.disp := by unfold State.pushAndGo; split <;> rfl
@[simp] theorem State.pushAndGo_dt (w : Word) : (s.pushAndGo w).dt = s.dt := by unfold State.pushAndGo; split <;> rfl
@[simp] theorem State.pushAndGo_st (w : Word) : (s.pushAndGo w).st = s.st := by unfold State.pushAndGo; split <;> rfl
@[simp] theorem State.pushAndGo_terminate (w : Word) : (s.pushAndGo w).terminate = s.terminate := by unfold State.pushAndGo; split <;> rfl
@[simp] theorem State.pushAndGo_keyWait (w : Word) : (s.pushAndGo w).keyWait = s.keyWait := by unfold State.pushAndGo; split <;> rfl
@[simp] theorem State.pushAndGo_ports (w : Word) : (s.pushAndGo w).ports = s.ports := by unfold State.pushAndGo; split <;> rfl
@[simp] theorem State.pushAndGo_script (w : Word) : (s.pushAndGo w).script = s.script := by unfold State.pushAndGo; split <;> rfl
@[simp] theorem State.pushAndGo_drawn (w : Word) : (s.pushAndGo w).drawn = s.drawn := by unfold State.pushAndGo; split <;> rfl
@[simp] theorem State.pushAndGo_readV (w : Word) (q : Reg) : (s.pushAndGo w).readV q = s.readV q := by unfold State.pushAndGo; split <;> rfl
@[simp] theorem State.pushAndGo_readByte (w : Word) (q : Addr) : (s.pushAndGo w).readByte q = s.readByte q := by unfold State.pushAndGo; split <;> rfl
@[simp] theorem State.pushAndGo_pixel (w : Word) (q : Fin 32) (p : Fin 64) : (s.pushAndGo w).pixel q p = s.pixel q p := by unfold State.pushAndGo; split <;> rfl

/-! ### `popAndGo` -/

@[simp] theorem State.popAndGo_mem : (s.popAndGo).mem = s.mem := by unfold State.popAndGo; split <;> rfl
@[simp] theorem State.popAndGo_v : (s.popAndGo).v = s.v := by unfold State.popAndGo; split <;> rfl
@[simp] theorem State.popAndGo_i : (s.popAndGo).i = s.i := by unfold State.popAndGo; split <;> rfl
@[simp] theorem State.popAndGo_stack : (s.popAndGo).stack = s.stack := by unfold State.popAndGo; split <;> rfl
@[simp] theorem State.popAndGo_disp : (s.popAndGo).disp = s.disp := by unfold State.popAndGo; split <;> rfl
@[simp] theorem State.popAndGo_dt : (s.popAndGo).dt = s.dt := by unfold State.popAndGo; split <;> rfl
@[simp] theorem State.popAndGo_st : (s.popAndGo).st = s.st := by unfold State.popAndGo; split <;> rfl
@[simp] theorem State.popAndGo_fault : (s.popAndGo).fault = s.fault := by unfold State.popAndGo; split <;> rfl
@[simp] theorem State.popAndGo_keyWait : (s.popAndGo).keyWait = s.keyWait := by unfold State.popAndGo; split <;> rfl
@[simp] theorem State.popAndGo_ports : (s.popAndGo).ports = s.ports := by unfold State.popAndGo; split <;> rfl
@[simp] theorem State.popAndGo_script : (s.popAndGo).script = s.script := by unfold State.popAndGo; split <;> rfl
@[simp] theorem State.popAndGo_drawn : (s.popAndGo).drawn = s.drawn := by unfold State.popAndGo; split <;> rfl
@[simp] theorem State.popAndGo_readV (q : Reg) : (s.popAndGo).readV q = s.readV q := by unfold State.popAndGo; split <;> rfl
@[simp] theorem State.popAndGo_readByte (q : Addr) : (s.popAndGo).readByte q = s.readByte q := by unfold State.popAndGo; split <;> rfl
@[simp] theorem State.popAndGo_pixel (q : Fin 32) (p : Fin 64) : (s.popAndGo).pixel q p = s.pixel q p := by unfold State.popAndGo; split <;> rfl

end Sys2Proof.Machine
end

