-- ==== Sys2Proof/Laws/Ops.lean ====
section
/-! SUPPORT. One specification lemma per shared operation: registers, block transfers, program counter, flags, timers,
stack, key-wait, host's turn. The provers cite these instead of unfolding the operations. -/

namespace Sys2Proof.Machine

/-! ### Registers -/

theorem RegFile.get_set (v : RegFile) (r q : Reg) (b : Byte) :
    (v.set r.val b).get q = if q = r then b else v.get q := by
  have : (v.set r.val b).get q = (v.set r.val b)[q.val] := rfl
  rw [this, Vector.getElem_set]
  by_cases h : r.val = q.val
  · simp [h, Fin.ext_iff]
  · simp [h, Fin.ext_iff, Ne.symm h]; rfl

/-- A register reads back what was written to it last; the others are as they were (R32). -/
theorem State.readV_writeV (s : State) (r q : Reg) (b : Byte) :
    (s.writeV r b).readV q = if q = r then b else s.readV q := RegFile.get_set s.v r q b

@[simp] theorem State.readV_writeV_same (s : State) (r : Reg) (b : Byte) : (s.writeV r b).readV r = b := by
  simp [State.readV_writeV]

theorem State.readV_writeV_ne (s : State) {r q : Reg} (b : Byte) (h : q ≠ r) : (s.writeV r b).readV q = s.readV q := by
  simp [State.readV_writeV, h]

/-- Result first, flag second: with x = F the flag stays (R140). -/
theorem State.readV_writeResultFlag (s : State) (x q : Reg) (b : Byte) (f : Bool) :
    (s.writeResultFlag x b f).readV q = if q = regF then flagByte f else if q = x then b else s.readV q := by
  simp [State.writeResultFlag, State.readV_writeV]

/-- A block loaded from `V[k]` on: the registers it covers hold its bytes, the others are as they were. -/
theorem RegFile.get_load (v : RegFile) (k : Nat) (bs : List Byte) (hk : k + bs.length ≤ 16) (q : Reg) :
    (RegFile.load v k bs).get q = if h : k ≤ q.val ∧ q.val < k + bs.length then bs[q.val - k] else v.get q := by
  induction bs generalizing v k with
  | nil =>
    have hq : ¬(k ≤ q.val ∧ q.val < k + ([] : List Byte).length) := fun h => by
      have h1 := h.2; rw [List.length_nil] at h1; omega
    rw [dif_neg hq]; rfl
  | cons b bs ih =>
    simp only [List.length_cons] at hk
    have hkq : (Fin.ofNat 16 k).val = k := Nat.mod_eq_of_lt (by omega)
    rw [RegFile.load, ih _ (k + 1) (by omega), RegFile.get_set]
    by_cases h1 : q.val = k
    · have : q = Fin.ofNat 16 k := Fin.ext (by rw [hkq, h1])
      rw [dif_neg (by omega), if_pos this, dif_pos (by simp only [List.length_cons]; omega)]
      simp [h1]
    · have hne : q ≠ Fin.ofNat 16 k := fun e => h1 (by rw [e, hkq])
      by_cases h2 : k + 1 ≤ q.val ∧ q.val < k + 1 + bs.length
      · have h3 : k ≤ q.val ∧ q.val < k + (b :: bs).length := by simp only [List.length_cons]; omega
        rw [dif_pos h2, dif_pos h3]
        have : q.val - k = (q.val - (k + 1)) + 1 := by omega
        simp [this]
      · have h3 : ¬(k ≤ q.val ∧ q.val < k + (b :: bs).length) := by simp only [List.length_cons]; omega
        rw [dif_neg h2, dif_neg h3, if_neg hne]

@[simp] theorem State.length_regsTo (s : State) (x : Reg) : (s.regsTo x).length = x.val + 1 := by simp [State.regsTo]

theorem State.getElem_regsTo (s : State) (x : Reg) (k : Nat) (h : k < (s.regsTo x).length) :
    (s.regsTo x)[k] = s.readV (Fin.ofNat 16 k) := by simp [State.regsTo]

@[simp] theorem State.length_readBlock (s : State) (base : Word) (n : Nat) : (s.readBlock base n).length = n := by
  simp [State.readBlock]

theorem State.getElem_readBlock (s : State) (base : Word) (n k : Nat) (h : k < (s.readBlock base n).length) :
    (s.readBlock base n)[k] = s.readByte (effAddr base k) := by simp [State.readBlock]

theorem ofNat_val (r : Reg) : Fin.ofNat 16 r.val = r := Fin.ext (Nat.mod_eq_of_lt r.isLt)

@[simp] theorem mem_regsUpTo (x r : Reg) : r ∈ regsUpTo x ↔ r ≤ x := by simp [regsUpTo]

/-! ### Program counter, index register -/

@[simp] theorem toNat_advance (pc : Word) : (advance pc).toNat = (pc.toNat + 2) % 4096 := by
  simp only [advance, BitVec.toNat_ofNat]; omega

@[simp] theorem toNat_zext16 (nnn : Addr) : (zext16 nnn).toNat = nnn.toNat := by
  simp only [zext16, BitVec.toNat_ofNat]; omega

@[simp] theorem toNat_jumpV0Target (b : Byte) (nnn : Addr) : (jumpV0Target b nnn).toNat = (b.toNat + nnn.toNat) % 4096 := by
  simp only [jumpV0Target, BitVec.toNat_ofNat]; omega

@[simp] theorem toNat_indexSum (i : Word) (b : Byte) : (indexSum i b).toNat = (i.toNat + b.toNat) % 4096 := by
  simp only [indexSum, BitVec.toNat_ofNat]; omega

@[simp] theorem toNat_glyphAddr (b : Byte) : (glyphAddr b).toNat = 5 * b.toNat := by
  simp only [glyphAddr, BitVec.toNat_ofNat]; omega

/-! ### Flags -/

@[simp] theorem flagByte_true : flagByte true = 1 := rfl
@[simp] theorem flagByte_false : flagByte false = 0 := rfl

/-! ### Timers -/

theorem toNat_timerTick (t : Byte) : (timerTick t).toNat = t.toNat - 1 := by
  unfold timerTick
  split
  · simp [*]
  · have : t.toNat ≠ 0 := fun h => ‹¬t = 0› (BitVec.eq_of_toNat_eq h)
    rw [BitVec.toNat_sub]; have := t.isLt; simp; omega

/-- `n` ticks take `n` off a timer, floor at 0 (R230). -/
theorem toNat_timerTicks (n : Nat) (t : Byte) : (timerTicks n t).toNat = t.toNat - n := by
  induction n generalizing t with
  | zero => rfl
  | succ n ih => rw [timerTicks, ih, toNat_timerTick]; omega

/-- `n` ticks are one tick, `n` times (R231). -/
theorem State.ticks_succ (s : State) (n : Nat) : s.ticks (n + 1) = s.tick.ticks n := rfl

/-! ### Stack -/

/-- What a push does: it pushes and goes, or it overflows (R40). -/
theorem State.pushAndGo_cases (s : State) (w : Word) :
    (s.sp < s.stack.length ∧ s.pushAndGo w = { s with stack := s.stack.set s.sp s.pc, sp := s.sp + 1, pc := w }) ∨
    (s.stack.length ≤ s.sp ∧ s.pushAndGo w = { s with fault := .stackOverflow }) := by
  by_cases h : s.sp < s.stack.length
  · exact .inl ⟨h, by simp [State.pushAndGo, State.stackCapacity, h]⟩
  · exact .inr ⟨Nat.le_of_not_lt h, by simp [State.pushAndGo, State.stackCapacity, h, State.raiseStackOverflow]⟩

/-- What a pop does: it ends the run, or it pops (R40, R122). -/
theorem State.popAndGo_cases (s : State) :
    (s.sp = 0 ∧ s.popAndGo = { s with terminate := true }) ∨
    (s.sp ≠ 0 ∧ s.popAndGo = { s with sp := s.sp - 1, pc := s.stack.getD (s.sp - 1) 0 }) := by
  by_cases h : s.sp = 0
  · exact .inl ⟨h, by simp [State.popAndGo, h, State.haltTerminate]⟩
  · exact .inr ⟨h, by simp [State.popAndGo, h]⟩

/-! ### Key-wait -/

/-- What a waiting core's turn does: it takes the key, or it holds (R205). -/
theorem State.keyWaitTurn_cases (s : State) (x : Reg) :
    (∃ k, s.ports.keyIn = some k ∧ s.keyWaitTurn x = .next (s.completeKeyWait x k)) ∨
    (s.ports.keyIn = none ∧ s.keyWaitTurn x = .fault .held) := by
  unfold State.keyWaitTurn
  cases s.ports.keyIn with
  | none => exact .inr ⟨rfl, rfl⟩
  | some k => exact .inl ⟨k, rfl, rfl⟩

/-- The completion writes its register and no other. -/
theorem State.readV_completeKeyWait (s : State) (x q : Reg) (k : Key) :
    (s.completeKeyWait x k).readV q = if q = x then keyByte k else s.readV q := State.readV_writeV s x q (keyByte k)

@[simp] theorem toNat_keyByte (k : Key) : (keyByte k).toNat = k.val := by
  simp only [keyByte, BitVec.toNat_ofNat]; omega

/-! ### Halted or running -/

/-- The core runs exactly when neither status field says otherwise (R19, R228). -/
theorem State.haltedBy_none (s : State) : s.haltedBy = none ↔ s.terminate = false ∧ s.fault = .none := by
  unfold State.haltedBy
  cases s.terminate <;> cases s.fault <;> simp

/-- A hold is no halt (R228: a key-wait is a sub-condition of running). -/
theorem State.haltedBy_ne_held (s : State) : s.haltedBy ≠ some .held := by
  unfold State.haltedBy
  cases s.terminate <;> cases s.fault <;> simp

/-- `n` ticks, as one number or one by one (R231). -/
theorem State.ticks_eq_iterate (s : State) (n : Nat) : s.ticks n = State.tick^[n] s := by
  induction n generalizing s with
  | zero => rfl
  | succ n ih => rw [State.ticks_succ, ih]; rfl

/-- A waiting core's step, with a key at the port (R107). -/
theorem step_waiting_key {s : State} {x : Reg} {k : Key} (h0 : s.haltedBy = none) (hx : s.keyWait = some x)
    (hk : s.nextInput.keyIn = some k) : step s = .next (s.hostTurn.completeKeyWait x k) := by
  simp [step, h0, hx, State.keyWaitTurn, hk]

/-- A waiting core's step, with no key at the port: it is not enabled (R107, R110). -/
theorem step_waiting_held {s : State} {x : Reg} (h0 : s.haltedBy = none) (hx : s.keyWait = some x)
    (hk : s.nextInput.keyIn = none) : step s = .fault .held := by
  simp [step, h0, hx, State.keyWaitTurn, hk]

/-- What a step does, once and for all (R110): it stops in a halted state; a waiting core completes or holds; any other
runs the handler of the fetched word after the host's turn and the fetch advance. -/
theorem step_cases (s : State) :
    (∃ f, s.haltedBy = some f ∧ step s = .fault f) ∨
    (s.haltedBy = none ∧ ∃ x k, s.keyWait = some x ∧ s.nextInput.keyIn = some k ∧
      step s = .next (s.hostTurn.completeKeyWait x k)) ∨
    (s.haltedBy = none ∧ ∃ x, s.keyWait = some x ∧ s.nextInput.keyIn = none ∧ step s = .fault .held) ∨
    (s.haltedBy = none ∧ s.keyWait = none ∧ step s = exec (decode s.fetchWord) s.hostTurn.advancePc) := by
  cases hh : s.haltedBy with
  | some f => exact .inl ⟨f, rfl, by simp [step, hh]⟩
  | none =>
    cases hx : s.keyWait with
    | some x =>
      cases hk : s.nextInput.keyIn with
      | some k => exact .inr (.inl ⟨rfl, x, k, rfl, rfl, step_waiting_key hh hx hk⟩)
      | none => exact .inr (.inr (.inl ⟨rfl, x, rfl, rfl, step_waiting_held hh hx hk⟩))
    | none => exact .inr (.inr (.inr ⟨rfl, rfl, by simp [step, hh, hx]⟩))

/-! ### The frame -/

theorem UnchangedBut.refl (ps : List Part) (s : State) : UnchangedBut ps s s := by
  constructor <;> intros <;> simp

/-- A wider list of parts says less. -/
theorem UnchangedBut.mono {ps qs : List Part} {s t : State} (h : UnchangedBut ps s t) (hs : ∀ p ∈ ps, p ∈ qs) :
    UnchangedBut qs s t where
  regs r hr := h.regs r fun hp => hr (hs _ hp)
  index hq := h.index fun hp => hq (hs _ hp)
  pc hq := h.pc fun hp => hq (hs _ hp)
  memory hq := h.memory fun hp => hq (hs _ hp)
  stack hq := h.stack fun hp => hq (hs _ hp)
  sp hq := h.sp fun hp => hq (hs _ hp)
  display hq := h.display fun hp => hq (hs _ hp)
  delayTimer hq := h.delayTimer fun hp => hq (hs _ hp)
  soundTimer hq := h.soundTimer fun hp => hq (hs _ hp)
  terminate hq := h.terminate fun hp => hq (hs _ hp)
  fault hq := h.fault fun hp => hq (hs _ hp)
  keyWait hq := h.keyWait fun hp => hq (hs _ hp)
  host hq := h.host fun hp => hq (hs _ hp)

theorem UnchangedBut.trans {ps : List Part} {s t u : State} (h : UnchangedBut ps s t) (g : UnchangedBut ps t u) :
    UnchangedBut ps s u where
  regs r hr := (g.regs r hr).trans (h.regs r hr)
  index hp := (g.index hp).trans (h.index hp)
  pc hp := (g.pc hp).trans (h.pc hp)
  memory hp a := (g.memory hp a).trans (h.memory hp a)
  stack hp := (g.stack hp).trans (h.stack hp)
  sp hp := (g.sp hp).trans (h.sp hp)
  display hp r c := (g.display hp r c).trans (h.display hp r c)
  delayTimer hp := (g.delayTimer hp).trans (h.delayTimer hp)
  soundTimer hp := (g.soundTimer hp).trans (h.soundTimer hp)
  terminate hp := (g.terminate hp).trans (h.terminate hp)
  fault hp := (g.fault hp).trans (h.fault hp)
  keyWait hp := (g.keyWait hp).trans (h.keyWait hp)
  host hp := ⟨(g.host hp).1.trans (h.host hp).1, (g.host hp).2.1.trans (h.host hp).2.1, (g.host hp).2.2.trans (h.host hp).2.2⟩

end Sys2Proof.Machine
end

