-- ==== Sys2Proof/Laws/PerInstr.lean ====
section
/-! SUPPORT. The statements made per instruction: family TableRow, one lemma per constructor. -/

namespace Sys2Proof.Laws.TableRow

/-- An instruction's word carries its row's fixed bits: `(w & mask) = match` (R96). -/
def Statement (i : Instr) : Prop := encode i &&& (tableRow i).2 = (tableRow i).1

theorem packNNN_row {op : Nat} (h : op < 16) (nnn : Addr) : packNNN op nnn &&& 0xF000 = BitVec.ofNat 16 (4096 * op) := by
  rw [and_F000, fieldOp_packNNN h]

theorem packXKK_row {op : Nat} (h : op < 16) (x : Reg) (kk : Byte) :
    packXKK op x kk &&& 0xF000 = BitVec.ofNat 16 (4096 * op) := by
  rw [and_F000, fieldOp_packXKK h]

theorem packX00_row {op : Nat} (h : op < 16) (x : Reg) (kk : Byte) :
    packXKK op x kk &&& 0xF0FF = BitVec.ofNat 16 (4096 * op + kk.toNat) := by
  rw [and_F0FF, fieldOp_packXKK h, bits_7_0_packXKK h]

theorem packXYN_row {op : Nat} (h : op < 16) (x y n : Fin 16) :
    packXYN op x y n &&& 0xF000 = BitVec.ofNat 16 (4096 * op) := by
  rw [and_F000, fieldOp_packXYN h]

theorem packXY0_row {op : Nat} (h : op < 16) (x y n : Fin 16) :
    packXYN op x y n &&& 0xF00F = BitVec.ofNat 16 (4096 * op + n.val) := by
  rw [and_F00F, fieldOp_packXYN h, bits_3_0_packXYN h]

theorem cls : Statement .cls := rfl

theorem ret : Statement .ret := rfl

theorem sys (nnn : Addr) : Statement (.sys nnn) := packNNN_row (op := 0) (by decide) nnn

theorem jp (nnn : Addr) : Statement (.jp nnn) := packNNN_row (op := 1) (by decide) nnn

theorem call (nnn : Addr) : Statement (.call nnn) := packNNN_row (op := 2) (by decide) nnn

theorem seImm (x : Reg) (kk : Byte) : Statement (.seImm x kk) := packXKK_row (op := 3) (by decide) x kk

theorem sneImm (x : Reg) (kk : Byte) : Statement (.sneImm x kk) := packXKK_row (op := 4) (by decide) x kk

theorem seReg (x : Reg) (y : Reg) : Statement (.seReg x y) := packXY0_row (op := 5) (by decide) x y 0

theorem ldImm (x : Reg) (kk : Byte) : Statement (.ldImm x kk) := packXKK_row (op := 6) (by decide) x kk

theorem addImm (x : Reg) (kk : Byte) : Statement (.addImm x kk) := packXKK_row (op := 7) (by decide) x kk

theorem ldReg (x : Reg) (y : Reg) : Statement (.ldReg x y) := packXY0_row (op := 8) (by decide) x y 0

theorem orReg (x : Reg) (y : Reg) : Statement (.orReg x y) := packXY0_row (op := 8) (by decide) x y 1

theorem andReg (x : Reg) (y : Reg) : Statement (.andReg x y) := packXY0_row (op := 8) (by decide) x y 2

theorem xorReg (x : Reg) (y : Reg) : Statement (.xorReg x y) := packXY0_row (op := 8) (by decide) x y 3

theorem addReg (x : Reg) (y : Reg) : Statement (.addReg x y) := packXY0_row (op := 8) (by decide) x y 4

theorem sub (x : Reg) (y : Reg) : Statement (.sub x y) := packXY0_row (op := 8) (by decide) x y 5

theorem shr (x : Reg) (y : Reg) : Statement (.shr x y) := packXY0_row (op := 8) (by decide) x y 6

theorem subn (x : Reg) (y : Reg) : Statement (.subn x y) := packXY0_row (op := 8) (by decide) x y 7

theorem shl (x : Reg) (y : Reg) : Statement (.shl x y) := packXY0_row (op := 8) (by decide) x y 14

theorem sneReg (x : Reg) (y : Reg) : Statement (.sneReg x y) := packXY0_row (op := 9) (by decide) x y 0

theorem ldI (nnn : Addr) : Statement (.ldI nnn) := packNNN_row (op := 10) (by decide) nnn

theorem jpV0 (nnn : Addr) : Statement (.jpV0 nnn) := packNNN_row (op := 11) (by decide) nnn

theorem rnd (x : Reg) (kk : Byte) : Statement (.rnd x kk) := packXKK_row (op := 12) (by decide) x kk

theorem drw (x : Reg) (y : Reg) (n : Fin 16) : Statement (.drw x y n) := packXYN_row (op := 13) (by decide) x y n

theorem skp (x : Reg) : Statement (.skp x) := packX00_row (op := 14) (by decide) x 0x9E

theorem sknp (x : Reg) : Statement (.sknp x) := packX00_row (op := 14) (by decide) x 0xA1

theorem ldVxDt (x : Reg) : Statement (.ldVxDt x) := packX00_row (op := 15) (by decide) x 0x07

theorem ldVxK (x : Reg) : Statement (.ldVxK x) := packX00_row (op := 15) (by decide) x 0x0A

theorem ldDtVx (x : Reg) : Statement (.ldDtVx x) := packX00_row (op := 15) (by decide) x 0x15

theorem ldStVx (x : Reg) : Statement (.ldStVx x) := packX00_row (op := 15) (by decide) x 0x18

theorem addI (x : Reg) : Statement (.addI x) := packX00_row (op := 15) (by decide) x 0x1E

theorem ldF (x : Reg) : Statement (.ldF x) := packX00_row (op := 15) (by decide) x 0x29

theorem ldB (x : Reg) : Statement (.ldB x) := packX00_row (op := 15) (by decide) x 0x33

theorem storeRegs (x : Reg) : Statement (.storeRegs x) := packX00_row (op := 15) (by decide) x 0x55

theorem loadRegs (x : Reg) : Statement (.loadRegs x) := packX00_row (op := 15) (by decide) x 0x65

theorem unrecognized (w : Word) : Statement (.unrecognized w) := BitVec.and_zero

end Sys2Proof.Laws.TableRow
end

