-- ==== Sys2Proof/Laws/Pixels.lean ====
section
/-! SUPPORT. What the draw datapath does to each pixel and to the collision flag, operation by operation. -/

namespace Sys2Proof.Machine

/-- A flip changes the one pixel (R191). -/
theorem Display.pixel_flip (d : Display) (r q : Fin 32) (c p : Fin 64) :
    (d.flip r c).pixel q p = if q = r ∧ p = c then !d.pixel r c else d.pixel q p := by
  have hrow : (d.flip r c).pixel q p = (if r.val = q.val then (d.get r).set c.val (!d.pixel r c) else d.get q).get p := by
    show ((d.set r.val ((d.get r).set c.val (!d.pixel r c)))[q.val]).get p = _
    rw [Vector.getElem_set]
    split <;> rfl
  rw [hrow]
  by_cases hr : q = r
  · subst hr
    rw [if_pos rfl]
    show ((d.get q).set c.val (!d.pixel q c))[p.val] = _
    rw [Vector.getElem_set]
    by_cases hc : p = c
    · subst hc; simp
    · rw [if_neg fun e => hc (Fin.ext e.symm)]; simp [hc]; rfl
  · rw [if_neg fun e => hr (Fin.ext e.symm)]; simp [hr]; rfl

@[simp] theorem Display.pixel_clear (r : Fin 32) (c : Fin 64) :
    Display.pixel (Vector.replicate 32 (Vector.replicate 64 false)) r c = false := by
  show ((Vector.replicate 32 (Vector.replicate 64 false))[r.val])[c.val] = false
  simp

/-- Two displays with the same pixels are the same. -/
theorem Display.ext_of_pixel {d e : Display} (h : ∀ r c, d.pixel r c = e.pixel r c) : d = e := by
  apply Vector.ext
  intro r hr
  apply Vector.ext
  intro c hc
  exact h ⟨r, hr⟩ ⟨c, hc⟩

@[simp] theorem plot_pixel (acc : Display × Bool) (px : Fin 64) (py : Fin 32) (r : Fin 32) (c : Fin 64) :
    (plot acc px py).1.pixel r c = if r = py ∧ c = px then !acc.1.pixel py px else acc.1.pixel r c :=
  Display.pixel_flip ..

@[simp] theorem plot_hit (acc : Display × Bool) (px : Fin 64) (py : Fin 32) :
    (plot acc px py).2 = (acc.2 || acc.1.pixel py px) := rfl

/-- The bit of a sprite byte that falls on column `c`, the byte's first column at `cx`, or none (R191, R192). -/
def rowBit (cx : Nat) (b : Byte) (c : Fin 64) : Bool :=
  decide ((c.val + 64 - cx % 64) % 64 < 8) && b.getLsbD (7 - (c.val + 64 - cx % 64) % 64)

/-- The first `k` columns of one sprite row: the pixels under set bits flip, none twice, and the flag gathers those that
were on. -/
theorem drawRow_prefix (cx row : Nat) (b : Byte) (acc : Display × Bool) (k : Nat) (hk : k ≤ 8) :
    let out := (List.range k).foldl
      (fun acc c => if b.getLsbD (7 - c) then plot acc (Fin.ofNat 64 (cx + c)) (Fin.ofNat 32 row) else acc) acc
    (∀ r c, out.1.pixel r c =
      (acc.1.pixel r c != (decide (r = Fin.ofNat 32 row) && decide ((c.val + 64 - cx % 64) % 64 < k) && rowBit cx b c))) ∧
    (out.2 = true ↔ acc.2 = true ∨ ∃ c : Fin 64, (c.val + 64 - cx % 64) % 64 < k ∧ rowBit cx b c = true ∧
      acc.1.pixel (Fin.ofNat 32 row) c = true) := by
  induction k with
  | zero => simp
  | succ k ih =>
    obtain ⟨hp, hh⟩ := ih (by omega)
    simp only [List.range_succ, List.foldl_append, List.foldl_cons, List.foldl_nil]
    generalize (List.range k).foldl
      (fun acc c => if b.getLsbD (7 - c) then plot acc (Fin.ofNat 64 (cx + c)) (Fin.ofNat 32 row) else acc) acc = mid at hp hh
    have hcol : ∀ c : Fin 64, c = Fin.ofNat 64 (cx + k) ↔ (c.val + 64 - cx % 64) % 64 = k := by
      intro c
      have := c.isLt
      rw [Fin.ext_iff]
      show c.val = (cx + k) % 64 ↔ _
      omega
    have hbit : ∀ c : Fin 64, (c.val + 64 - cx % 64) % 64 = k → rowBit cx b c = b.getLsbD (7 - k) := by
      intro c hc
      simp only [rowBit, hc]
      simp; omega
    have hpxk := (hcol (Fin.ofNat 64 (cx + k))).1 rfl
    generalize Fin.ofNat 64 (cx + k) = px at hcol hpxk ⊢
    generalize Fin.ofNat 32 row = py at hp hh ⊢
    have hlt : ∀ c : Fin 64, (c.val + 64 - cx % 64) % 64 ≠ k →
        decide ((c.val + 64 - cx % 64) % 64 < k + 1) = decide ((c.val + 64 - cx % 64) % 64 < k) := by
      intro c hc; congr 1; apply propext; omega
    have h0 : decide ((px.val + 64 - cx % 64) % 64 < k) = false := by simp [hpxk]
    have h1 : decide ((px.val + 64 - cx % 64) % 64 < k + 1) = true := by simp [hpxk]
    by_cases hb : b.getLsbD (7 - k) = true
    · rw [if_pos hb]
      constructor
      · intro r c
        rw [plot_pixel, hp, hp]
        by_cases hc : c = px
        · subst hc
          by_cases hr : r = py
          · rw [if_pos ⟨hr, rfl⟩, h0, h1, hbit c hpxk, hb]; simp [hr]
          · simp [hr, h0]
        · rw [if_neg fun e => hc e.2, hlt c fun e => hc ((hcol c).2 e)]
      · rw [plot_hit, Bool.or_eq_true, hh, hp, h0]
        simp only [Bool.and_false, Bool.false_and, Bool.bne_false]
        constructor
        · rintro ((h | ⟨c, h2, h3, h4⟩) | h)
          · exact .inl h
          · exact .inr ⟨c, by omega, h3, h4⟩
          · exact .inr ⟨px, by omega, by rw [hbit px hpxk, hb], h⟩
        · rintro (h | ⟨c, h2, h3, h4⟩)
          · exact .inl (.inl h)
          · by_cases hc : (c.val + 64 - cx % 64) % 64 = k
            · right; rwa [← (hcol c).2 hc]
            · exact .inl (.inr ⟨c, by omega, h3, h4⟩)
    · rw [if_neg hb]
      have hbf : ∀ c : Fin 64, (c.val + 64 - cx % 64) % 64 = k → rowBit cx b c = false := fun c hc => by
        rw [hbit c hc]; simpa using hb
      constructor
      · intro r c
        rw [hp]
        by_cases hc : (c.val + 64 - cx % 64) % 64 = k
        · simp [hbf c hc]
        · rw [hlt c hc]
      · rw [hh]
        constructor
        · rintro (h | ⟨c, h2, h3, h4⟩)
          · exact .inl h
          · exact .inr ⟨c, by omega, h3, h4⟩
        · rintro (h | ⟨c, h2, h3, h4⟩)
          · exact .inl h
          · by_cases hc : (c.val + 64 - cx % 64) % 64 = k
            · rw [hbf c hc] at h3; exact absurd h3 (by simp)
            · exact .inr ⟨c, by omega, h3, h4⟩

/-- One sprite row: the pixels under set bits flip, and the flag gathers those that were on (R191). -/
theorem drawRow_spec (cx row : Nat) (b : Byte) (acc : Display × Bool) :
    (∀ r c, (drawRow cx row b acc).1.pixel r c =
      (acc.1.pixel r c != (decide (r = Fin.ofNat 32 row) && rowBit cx b c))) ∧
    ((drawRow cx row b acc).2 = true ↔ acc.2 = true ∨ ∃ c : Fin 64, rowBit cx b c = true ∧
      acc.1.pixel (Fin.ofNat 32 row) c = true) := by
  obtain ⟨hp, hh⟩ := drawRow_prefix cx row b acc 8 (Nat.le_refl 8)
  have lt8 : ∀ c : Fin 64, rowBit cx b c = true → (c.val + 64 - cx % 64) % 64 < 8 := by
    intro c h; simp only [rowBit, Bool.and_eq_true, decide_eq_true_eq] at h; exact h.1
  constructor
  · intro r c
    rw [drawRow, hp]
    by_cases h : rowBit cx b c = true
    · simp [lt8 c h]
    · simp [h]
  · rw [drawRow, hh]
    constructor
    · rintro (h | ⟨c, -, h2, h3⟩)
      · exact .inl h
      · exact .inr ⟨c, h2, h3⟩
    · rintro (h | ⟨c, h2, h3⟩)
      · exact .inl h
      · exact .inr ⟨c, lt8 c h2, h2, h3⟩

/-- The bit of a sprite that falls on a pixel: of the row as far below the sprite's first as the pixel is (R191). -/
def rowsBit (cx row : Nat) (bs : List Byte) (r : Fin 32) (c : Fin 64) : Bool :=
  match bs[(r.val + 32 - row % 32) % 32]? with
  | some b => rowBit cx b c
  | none => false

/-- The rest of a sprite covers no pixel of its first row, and the first row covers no other. -/
theorem rowsBit_cons (cx row : Nat) (b : Byte) (bs : List Byte) (h : bs.length < 32) (r : Fin 32) (c : Fin 64) :
    rowsBit cx row (b :: bs) r c = (if r = Fin.ofNat 32 row then rowBit cx b c else rowsBit cx (row + 1) bs r c) ∧
    (r = Fin.ofNat 32 row → rowsBit cx (row + 1) bs r c = false) := by
  have hr := r.isLt
  have key : r = Fin.ofNat 32 row ↔ (r.val + 32 - row % 32) % 32 = 0 := by
    rw [Fin.ext_iff]
    show r.val = row % 32 ↔ _
    omega
  by_cases h0 : (r.val + 32 - row % 32) % 32 = 0
  · have h31 : (r.val + 32 - (row + 1) % 32) % 32 = 31 := by omega
    refine ⟨by rw [if_pos (key.2 h0)]; simp [rowsBit, h0], fun _ => ?_⟩
    unfold rowsBit
    rw [h31, List.getElem?_eq_none (by omega)]
  · have hs : (r.val + 32 - row % 32) % 32 = (r.val + 32 - (row + 1) % 32) % 32 + 1 := by omega
    exact ⟨by rw [if_neg fun e => h0 (key.1 e)]; simp [rowsBit, hs], fun e => absurd (key.1 e) h0⟩

/-- The draw datapath as a whole: exactly the pixels under the sprite's set bits flip, and the flag says whether one of
them was on before (R191, R193). -/
theorem drawRows_spec (cx row : Nat) (bs : List Byte) (hl : bs.length ≤ 32) (acc : Display × Bool) :
    (∀ r c, (drawRows cx row bs acc).1.pixel r c = (acc.1.pixel r c != rowsBit cx row bs r c)) ∧
    ((drawRows cx row bs acc).2 = true ↔
      acc.2 = true ∨ ∃ r c, rowsBit cx row bs r c = true ∧ acc.1.pixel r c = true) := by
  induction bs generalizing row acc with
  | nil => simp [drawRows, rowsBit]
  | cons b bs ih =>
    simp only [List.length_cons] at hl
    obtain ⟨rp, rh⟩ := drawRow_spec cx row b acc
    obtain ⟨ip, iH⟩ := ih (row + 1) (by omega) (drawRow cx row b acc)
    have split := fun r c => rowsBit_cons cx row b bs (by omega) r c
    rw [drawRows]
    generalize Fin.ofNat 32 row = py at rp rh split
    constructor
    · intro r c
      rw [ip, rp, (split r c).1]
      by_cases h : r = py
      · rw [(split r c).2 h]; simp [h]
      · simp [h]
    · rw [iH, rh]
      constructor
      · rintro ((h | ⟨c, h1, h2⟩) | ⟨r, c, h1, h2⟩)
        · exact .inl h
        · exact .inr ⟨py, c, by rw [(split py c).1, if_pos rfl, h1], h2⟩
        · have hne : r ≠ py := fun e => by rw [(split r c).2 e] at h1; exact absurd h1 (by simp)
          rw [rp] at h2
          exact .inr ⟨r, c, by rw [(split r c).1, if_neg hne, h1], by simpa [hne] using h2⟩
      · rintro (h | ⟨r, c, h1, h2⟩)
        · exact .inl (.inl h)
        · rw [(split r c).1] at h1
          by_cases hr : r = py
          · rw [if_pos hr] at h1
            exact .inl (.inr ⟨c, h1, hr ▸ h2⟩)
          · rw [if_neg hr] at h1
            exact .inr ⟨r, c, h1, by rw [rp]; simpa [hr] using h2⟩

end Sys2Proof.Machine
end

