-- ==== Sys2Proof/Tests/Slice0.lean ====
section
/-! SUPPORT. Tests. The expected values are those of spec/95_test_vectors.md (a docstring names the vector) or are written
out from the rule a docstring names; the witnesses at the end meet the hypotheses of the statements. -/

namespace Sys2Proof.Tests

open Sys2Proof.Machine Host

/-! ### Well-formedness: one ill-formed term for each check -/

/-- 0x00E0 is CLS, not SYS (R86). -/
theorem test_wf_refuses_sys_0E0 : (Instr.sys 0x0E0).wellFormed = false := by decide

/-- 0x00EE is RET, not SYS (R86). -/
theorem test_wf_refuses_sys_0EE : (Instr.sys 0x0EE).wellFormed = false := by decide

/-- A word of a listed instruction is no unrecognized word (R90): one of each family that has such words. -/
theorem test_wf_refuses_recognized_words :
    ([0x5120, 0x9120, 0x8124, 0x812E, 0xE19E, 0xE1A1, 0xF10A, 0xF165, 0x1234] : List Word).all
      (fun w => (Instr.unrecognized w).wellFormed == false) = true := by decide

/-- What the checks let through, at the edges of the refused words. -/
theorem test_wf_accepts :
    ([.sys 0x0DF, .sys 0x0E1, .sys 0xFEE, .unrecognized 0x5121, .unrecognized 0x812D, .unrecognized 0xF1FF] : List Instr).all
      (·.wellFormed) = true := by decide

/-! ### Decoding: words written out bit by bit from the encodings of spec/30_encoding.md (R81-R89) -/

/-- Family 0: the whole word (R86). -/
theorem test_decode_family_0 :
    decode 0b0000_0000_1110_0000 = .cls ∧
    decode 0b0000_0000_1110_1110 = .ret ∧
    decode 0b0000_0001_1110_0000 = .sys 0x1E0 ∧
    decode 0b0000_0000_0000_0000 = .sys 0 := by decide

/-- Format NNN (R82, R105). -/
theorem test_decode_families_1_2_A_B :
    decode 0b0001_1010_1011_1100 = .jp 0xABC ∧
    decode 0b0010_1010_1011_1100 = .call 0xABC ∧
    decode 0b1010_0001_0010_0011 = .ldI 0x123 ∧
    decode 0b1011_1111_0000_0001 = .jpV0 0xF01 := by decide

/-- Format XKK (R82, R105). -/
theorem test_decode_families_3_4_6_7_C :
    decode 0b0011_0001_0100_0010 = .seImm 1 0x42 ∧
    decode 0b0100_0010_0000_0101 = .sneImm 2 0x05 ∧
    decode 0b0110_1010_0111_1111 = .ldImm 0xA 0x7F ∧
    decode 0b0111_1111_0000_0001 = .addImm 0xF 0x01 ∧
    decode 0b1100_0101_0000_1111 = .rnd 5 0x0F := by decide

/-- Formats XY0 and XYN (R82, R105). -/
theorem test_decode_families_5_9_D :
    decode 0b0101_0011_0100_0000 = .seReg 3 4 ∧
    decode 0b1001_0011_0100_0000 = .sneReg 3 4 ∧
    decode 0b1101_1011_1100_0010 = .drw 0xB 0xC 2 ∧
    decode 0b0101_0001_0010_0001 = .unrecognized 0x5121 ∧
    decode 0b1001_0001_0010_0001 = .unrecognized 0x9121 := by decide

/-- Family 8, by the low nibble (R87). -/
theorem test_decode_family_8 :
    decode 0b1000_0001_0010_0000 = .ldReg 1 2 ∧
    decode 0b1000_0001_0010_0001 = .orReg 1 2 ∧
    decode 0b1000_0001_0010_0010 = .andReg 1 2 ∧
    decode 0b1000_0001_0010_0011 = .xorReg 1 2 ∧
    decode 0b1000_0001_0010_0100 = .addReg 1 2 ∧
    decode 0b1000_0001_0010_0101 = .sub 1 2 ∧
    decode 0b1000_0001_0010_0110 = .shr 1 2 ∧
    decode 0b1000_0001_0010_0111 = .subn 1 2 ∧
    decode 0b1000_0001_0010_1110 = .shl 1 2 ∧
    decode 0b1000_0001_0010_1000 = .unrecognized 0x8128 := by decide

/-- Family E, by the low byte (R88). -/
theorem test_decode_family_E :
    decode 0b1110_0010_1001_1110 = .skp 2 ∧
    decode 0b1110_0010_1010_0001 = .sknp 2 ∧
    decode 0b1110_0001_1001_1111 = .unrecognized 0xE19F := by decide

/-- Family F, by the low byte (R89). -/
theorem test_decode_family_F :
    decode 0b1111_0001_0000_0111 = .ldVxDt 1 ∧
    decode 0b1111_0010_0000_1010 = .ldVxK 2 ∧
    decode 0b1111_0000_0001_0101 = .ldDtVx 0 ∧
    decode 0b1111_0011_0001_1000 = .ldStVx 3 ∧
    decode 0b1111_0010_0001_1110 = .addI 2 ∧
    decode 0b1111_0000_0010_1001 = .ldF 0 ∧
    decode 0b1111_0000_0011_0011 = .ldB 0 ∧
    decode 0b1111_0010_0101_0101 = .storeRegs 2 ∧
    decode 0b1111_0010_0110_0101 = .loadRegs 2 ∧
    decode 0b1111_0001_0000_1000 = .unrecognized 0xF108 := by decide

/-- The reading by the table's bit numbers: one 16-bit word, the byte at the lower address the high one (R60, R80). -/
theorem test_decode_table_word : decodeTableWord 16 0x8124 = some (.addReg 1 2) ∧ decodeTableWord 16 0xF265 = some (.loadRegs 2) := by
  decide

/-! ### A small state to start from -/

/-- A host that presses no key, presents none, and lets no tick fall. -/
def quiet : HostInput := ⟨0, Vector.replicate 256 false, none, 0⟩

/-- The state after reset, its stack of two entries, its host quiet for one transaction. -/
def base : State := { State.reset with stack := [0, 0], script := [quiet] }

/-- Some registers set. -/
def withV (s : State) (l : List (Reg × Byte)) : State := l.foldl (fun s p => s.writeV p.1 p.2) s

/-- Some bytes stored. -/
def withMem (s : State) (l : List (Addr × Byte)) : State := l.foldl (fun s p => s.writeByte p.1 p.2) s

/-- Some pixels (row, column) turned on. -/
def withOn (s : State) (l : List (Fin 32 × Fin 64)) : State := { s with disp := l.foldl (fun d p => d.flip p.1 p.2) s.disp }

/-- One step, as it is: it must answer a next state, and that state must pass the check. -/
def steps (s : State) (check : State → Bool) : Bool :=
  match step s with
  | .next t => check t
  | .fault _ => false
  | .refused _ => false

/-- One step on a word placed at `PC`. -/
def runs (s : State) (w : Nat) (check : State → Bool) : Bool := steps (s.withFetchWord 16 w) check

/-! ### One step of each instruction -/

/-- DP1 -/
theorem test_cls_all_off : runs (withOn (withV base [(15, 1)]) [(3, 4), (31, 63)]) 0x00E0
    (fun t => !t.pixel 3 4 && !t.pixel 31 63 && t.readV 15 == 1) = true := by decide

/-- FL7 -/
theorem test_ret_pops : runs ({ base with pc := 0x400, sp := 2, stack := [0x111, 0x302] }) 0x00EE
    (fun t => t.sp == 1 && t.pc == 0x302 && t.stack == [0x111, 0x302]) = true := by decide

/-- FL8 -/
theorem test_ret_terminates : runs ({ base with pc := 0x206 }) 0x00EE
    (fun t => t.terminate && t.pc == 0x208 && t.sp == 0) = true := by decide

/-- CY10 -/
theorem test_sys_is_no_clear : runs (withOn base [(3, 4)]) 0x01E0
    (fun t => t.pixel 3 4 && t.pc == 0x202) = true := by decide

/-- CY11 -/
theorem test_sys_is_no_return : runs ({ base with pc := 0x200, sp := 1 }) 0x0FEE
    (fun t => t.sp == 1 && t.pc == 0x202) = true := by decide

/-- FL1 -/
theorem test_jp_odd_target : runs ({ base with pc := 0x300 }) 0x1201
    (fun t => t.pc == 0x201) = true := by decide

/-- FL4 -/
theorem test_call_at_top : runs ({ base with pc := 0xFFE, stack := [7, 0] }) 0x2400
    (fun t => t.stack == [0, 0] && t.sp == 1 && t.pc == 0x400) = true := by decide

/-- FL6, a stack of one entry -/
theorem test_call_overflows : runs ({ base with pc := 0x300, sp := 1, stack := [0x20A] }) 0x2400
    (fun t => t.fault == .stackOverflow && t.pc == 0x302 && t.sp == 1 && t.stack == [0x20A]) = true := by decide

/-- FL11 -/
theorem test_se_imm_skip_wraps : runs ({ base with pc := 0xFFC }) 0x3000
    (fun t => t.pc == 0x000) = true := by decide

/-- FL10 -/
theorem test_se_imm_no_skip : runs (withV ({ base with pc := 0x300 }) [(1, 0x43)]) 0x3142
    (fun t => t.pc == 0x302) = true := by decide

/-- FL13 -/
theorem test_sne_imm_no_skip : runs (withV ({ base with pc := 0x300 }) [(1, 0x42)]) 0x4142
    (fun t => t.pc == 0x302) = true := by decide

/-- FL14 -/
theorem test_sne_imm_skips : runs ({ base with pc := 0x300 }) 0x4142
    (fun t => t.pc == 0x304) = true := by decide

/-- FL15 -/
theorem test_se_reg_skips : runs (withV ({ base with pc := 0x300 }) [(1, 0x99), (2, 0x99)]) 0x5120
    (fun t => t.pc == 0x304) = true := by decide

/-- FL16 -/
theorem test_se_reg_no_skip : runs (withV ({ base with pc := 0x300 }) [(1, 0x99), (2, 0x98)]) 0x5120
    (fun t => t.pc == 0x302) = true := by decide

/-- FL18 -/
theorem test_sne_reg_skips : runs (withV ({ base with pc := 0x300 }) [(1, 1), (2, 2)]) 0x9120
    (fun t => t.pc == 0x304) = true := by decide

/-- FL19 -/
theorem test_sne_reg_same : runs (withV ({ base with pc := 0x300 }) [(3, 9)]) 0x9330
    (fun t => t.pc == 0x302) = true := by decide

/-- AL1 -/
theorem test_ld_imm : runs (base) 0x6A7F
    (fun t => t.readV 10 == 0x7F) = true := by decide

/-- AL2 -/
theorem test_add_imm_wraps : runs (withV base [(1, 5), (15, 0x42)]) 0x71FF
    (fun t => t.readV 1 == 4 && t.readV 15 == 0x42) = true := by decide

/-- AL4 -/
theorem test_add_imm_on_vf : runs (withV base [(15, 0xFF)]) 0x7F01
    (fun t => t.readV 15 == 0) = true := by decide

/-- AL5 -/
theorem test_ld_reg : runs (withV base [(2, 0x3C)]) 0x8120
    (fun t => t.readV 1 == 0x3C && t.readV 2 == 0x3C) = true := by decide

/-- AL6 -/
theorem test_or_no_flag : runs (withV base [(1, 0xF0), (2, 0x0F), (15, 0x55)]) 0x8121
    (fun t => t.readV 1 == 0xFF && t.readV 15 == 0x55) = true := by decide

/-- AL7 -/
theorem test_and_no_flag : runs (withV base [(1, 0xF0), (2, 0x3C), (15, 0x55)]) 0x8122
    (fun t => t.readV 1 == 0x30 && t.readV 15 == 0x55) = true := by decide

/-- AL8 -/
theorem test_xor : runs (withV base [(1, 0xF0), (2, 0x3C)]) 0x8123
    (fun t => t.readV 1 == 0xCC) = true := by decide

/-- AL12 -/
theorem test_add_flag_last : runs (withV base [(15, 0xFF), (1, 1)]) 0x8F14
    (fun t => t.readV 15 == 1 && t.readV 1 == 1) = true := by decide

/-- AL13 -/
theorem test_add_reads_old_vf : runs (withV base [(1, 0x10), (15, 0xF0)]) 0x81F4
    (fun t => t.readV 1 == 0 && t.readV 15 == 1) = true := by decide

/-- AL15 -/
theorem test_sub_equal_strict : runs (withV base [(1, 0x10), (2, 0x10), (15, 9)]) 0x8125
    (fun t => t.readV 1 == 0 && t.readV 15 == 0) = true := by decide

/-- AL17 -/
theorem test_sub_flag_last : runs (withV base [(15, 0x0A), (2, 3)]) 0x8F25
    (fun t => t.readV 15 == 1) = true := by decide

/-- AL18 -/
theorem test_subn_borrow : runs (withV base [(1, 0x0A), (2, 3)]) 0x8127
    (fun t => t.readV 1 == 0xF9 && t.readV 15 == 0) = true := by decide

/-- AL19 -/
theorem test_subn : runs (withV base [(1, 3), (2, 0x0A)]) 0x8127
    (fun t => t.readV 1 == 7 && t.readV 15 == 1) = true := by decide

/-- AL23 -/
theorem test_shr_ignores_vy : runs (withV base [(3, 4), (5, 0xFF)]) 0x8356
    (fun t => t.readV 3 == 2 && t.readV 15 == 0) = true := by decide

/-- AL24 -/
theorem test_shr_flag_last : runs (withV base [(15, 3)]) 0x8F06
    (fun t => t.readV 15 == 1) = true := by decide

/-- AL27 -/
theorem test_shl_ignores_vy : runs (withV base [(4, 1), (5, 0x80)]) 0x845E
    (fun t => t.readV 4 == 2 && t.readV 15 == 0) = true := by decide

/-- AL25 -/
theorem test_shl_bit_out : runs (withV base [(4, 0x80)]) 0x840E
    (fun t => t.readV 4 == 0 && t.readV 15 == 1) = true := by decide

/-- MX2 -/
theorem test_ld_i : runs (base) 0xAFFF
    (fun t => t.i == 0xFFF) = true := by decide

/-- FL21 -/
theorem test_jp_v0_wraps : runs (withV base [(0, 0xFF)]) 0xBFFF
    (fun t => t.pc == 0x0FE) = true := by decide

/-- FL22 -/
theorem test_jp_v0_not_vx : runs (withV base [(0, 2), (15, 0x30)]) 0xBF01
    (fun t => t.pc == 0xF03) = true := by decide

/-- AL28 -/
theorem test_rnd_masks : runs ({ base with script := [{ quiet with rnd := 0xA7 }] }) 0xC50F
    (fun t => t.readV 5 == 7) = true := by decide

/-- AL31 -/
theorem test_rnd_into_vf : runs (withV { base with script := [{ quiet with rnd := 0x3C }] } [(15, 0x99)]) 0xCF0F
    (fun t => t.readV 15 == 0x0C) = true := by decide

/-- DP3 -/
theorem test_drw_modulo : runs (withMem (withV { base with i := 0x300 } [(0, 200), (1, 40)]) [(0x300, 0x80)]) 0xD011
    (fun t => t.pixel 8 8 && !t.pixel 8 9 && t.readV 15 == 0) = true := by decide

/-- DP8 -/
theorem test_drw_collides : runs (withMem (withOn { base with i := 0x300 } [(0, 0), (0, 1)]) [(0x300, 0xC0)]) 0xD011
    (fun t => !t.pixel 0 0 && !t.pixel 0 1 && t.readV 15 == 1) = true := by decide

/-- TK1 -/
theorem test_skp_down : runs ({ base with pc := 0x300, v := base.v.set 2 0x0A, script := [{ quiet with keyDown := (Vector.replicate 256 false).set 10 true }] }) 0xE29E
    (fun t => t.pc == 0x304) = true := by decide

/-- TK2 -/
theorem test_skp_up : runs ({ base with pc := 0x300, v := base.v.set 2 0x0A, script := [{ quiet with keyDown := (Vector.replicate 256 false).set 11 true }] }) 0xE29E
    (fun t => t.pc == 0x302) = true := by decide

/-- TK3 -/
theorem test_sknp_up : runs ({ base with pc := 0x300, v := base.v.set 2 0x0A, script := [{ quiet with keyDown := (Vector.replicate 256 false).set 11 true }] }) 0xE2A1
    (fun t => t.pc == 0x304) = true := by decide

/-- TK4 -/
theorem test_sknp_down : runs ({ base with pc := 0x300, v := base.v.set 2 0x0A, script := [{ quiet with keyDown := (Vector.replicate 256 false).set 10 true }] }) 0xE2A1
    (fun t => t.pc == 0x302) = true := by decide

/-- TK7 -/
theorem test_ld_vx_dt : runs ({ base with pc := 0x200, dt := 0x3C }) 0xFF07
    (fun t => t.readV 15 == 0x3C) = true := by decide

/-- TK16 -/
theorem test_ld_vx_k_waits : runs (withV ({ base with pc := 0x206 }) [(2, 9)]) 0xF20A
    (fun t => t.keyWait == some 2 && t.pc == 0x208 && t.readV 2 == 9 && t.needKey) = true := by decide

/-- TK8 -/
theorem test_ld_dt_vx : runs (withV base [(0, 5)]) 0xF015
    (fun t => t.dt == 5 && t.st == 0) = true := by decide

/-- TK10 -/
theorem test_ld_st_vx : runs (withV base [(3, 1)]) 0xF318
    (fun t => t.st == 1 && t.sound) = true := by decide

/-- MX4 -/
theorem test_add_i_no_flag : runs (withV { base with i := 0xFFF } [(2, 1)]) 0xF21E
    (fun t => t.i == 0 && t.readV 15 == 0) = true := by decide

/-- MX5 -/
theorem test_add_i_wraps : runs (withV { base with i := 0xFFE } [(2, 0xFF)]) 0xF21E
    (fun t => t.i == 0x0FD) = true := by decide

/-- MX8 -/
theorem test_ld_f_not_masked : runs (withV base [(0, 0x10)]) 0xF029
    (fun t => t.i == 0x050) = true := by decide

/-- MX13 -/
theorem test_ld_b_wraps : runs (withV { base with i := 0xFFE } [(0, 123)]) 0xF033
    (fun t => t.readByte 0xFFE == 1 && t.readByte 0xFFF == 2 && t.readByte 0 == 3) = true := by decide

/-- MX15 -/
theorem test_store_regs_wraps : runs ({ base with i := 0xFF8, v := Vector.ofFn fun k => BitVec.ofNat 8 k.val }) 0xFF55
    (fun t => t.readByte 0xFF8 == 0 && t.readByte 0xFFF == 7 && t.readByte 0 == 8 && t.readByte 7 == 15 && t.i == 0xFF8) = true := by decide

/-- MX14 -/
theorem test_store_regs_inclusive : runs (withV { base with i := 0x400 } [(0, 0x11), (1, 0x22)]) 0xF055
    (fun t => t.readByte 0x400 == 0x11 && t.readByte 0x401 == 0) = true := by decide

/-- MX18 -/
theorem test_load_regs_font : runs (withV base [(2, 9)]) 0xF165
    (fun t => t.readV 0 == 0xF0 && t.readV 1 == 0x90 && t.readV 2 == 9) = true := by decide

/-- CY5 -/
theorem test_unrecognized_no_op : runs (withV base [(1, 2), (2, 2)]) 0x5121
    (fun t => t.pc == 0x202) = true := by decide

/-- CY9 -/
theorem test_unrecognized_keeps_vf : runs (withV base [(15, 7)]) 0xF1FF
    (fun t => t.pc == 0x202 && t.readV 15 == 7) = true := by decide

/-! ### The step -/

/-- CY3: the fetch wraps at the top of memory, big-endian. -/
theorem test_fetch_wraps : steps (withMem { base with pc := 0xFFF } [(0xFFF, 0x12)]) (fun t => t.pc == 0x2F0) = true := by decide

/-- CY13 and CY14 -/
theorem test_halted : step { base with terminate := true } = .fault .terminated ∧
    step { base with fault := .stackOverflow } = .fault .stackOverflow := ⟨rfl, rfl⟩

/-- CY15: no key, so no transition; TK15 and TK17: three ticks count on in the hold, and a key lifts it. -/
theorem test_key_wait_holds : step { base with keyWait := some 3 } = .fault .held ∧
    steps ((State.ticks { base with keyWait := some 2, dt := 5, st := 2 } 3).present { quiet with keyIn := some 7 })
      (fun t => t.dt == 2 && t.st == 0 && t.readV 2 == 7 && t.keyWait == none && t.pc == 0x200) = true := ⟨rfl, by decide⟩

/-- TK18: VF gets the key 0. -/
theorem test_key_wait_completes : steps (withV { base with keyWait := some 15, script := [{ quiet with keyIn := some 0 }] } [(15, 7)])
    (fun t => t.keyWait == none && t.readV 15 == 0 && t.pc == 0x200) = true := by decide

/-- TK11, TK12 and TK14: ticks, floor at 0, in a halted core too. -/
theorem test_tick : (State.tick { base with dt := 1, st := 3 }).dt = 0 ∧ (State.tick { base with dt := 1, st := 3 }).st = 2 ∧
    base.tick.dt = 0 ∧ base.tick.st = 0 ∧ (State.tick { base with dt := 5, terminate := true }).dt = 4 := by decide

/-- Three ticks between two transactions (R231), the key-wait completing in the second. -/
theorem test_ticks_before_completion : steps { base with
      keyWait := some 2, dt := 5, st := 2, script := [{ quiet with ticks := 3, keyIn := some 1 }] }
    (fun t => t.dt == 2 && t.st == 0 && t.keyWait == none && t.readV 2 == 1) = true := by decide

/-- RS2 and RS3: the largest image, and one byte more. -/
theorem test_image_sizes : (∃ t, construct (List.replicate 3584 0xAA) = .next t) ∧
    construct (List.replicate 3585 0xAA) = .refused .imageTooLarge := by
  constructor
  · exact ⟨_, if_neg (by rw [List.length_replicate]; decide)⟩
  · exact if_pos (by rw [List.length_replicate]; decide)

/-- RS4 and RS5: the image and the glyph 1 in place. -/
theorem test_image_and_font : (match construct [0x12, 0x00] with
    | .next t => t.fetchWord == 0x1200 && t.readBlock 0x005 5 == [0x20, 0x60, 0x20, 0x20, 0x70] && t.readByte 0x4F == 0x80
    | .fault _ => false
    | .refused _ => false) = true := by decide

/-- One word of each row of the opcode table, placed at reset, is run to a next state. -/
theorem test_every_row_runs_from_reset :
    (([0x00E0, 0x00EE, 0x0123, 0x1ABC, 0x2ABC, 0x3142, 0x4142, 0x5120, 0x6142, 0x7142] ++
      [0x8120, 0x8121, 0x8122, 0x8123, 0x8124, 0x8125, 0x8126, 0x8127, 0x812E, 0x9120, 0xA123, 0xB123, 0xC142, 0xD125] ++
      [0xE19E, 0xE1A1, 0xF107, 0xF10A, 0xF115, 0xF118, 0xF11E, 0xF129, 0xF133, 0xF155, 0xF165, 0x5121]).all
        fun w => runs State.reset w fun _ => true) = true := by decide

/-! ### Witnesses: states and operands that meet the hypotheses of the statements of Certificates/Slice0 -/

/-- The state a step leaves. -/
def after (s : State) : State :=
  match step s with
  | .next t => t
  | .fault _ => s
  | .refused _ => s

/-- A state at whose `PC` the word stands, fetched next. -/
def at16 (w : Nat) : State := base.withFetchWord 16 w

theorem witness_FamilyZeroDecodesByWholeWord :
    ((0x000 : Addr) ≠ 0x0E0 ∧ (0x000 : Addr) ≠ 0x0EE) ∧ (0xFFF : Addr) ≠ 0x0E0 ∧ (0xFFF : Addr) ≠ 0x0EE := by decide

theorem witness_FirstLevelDecodesByOp : (1 : Fin 16) ≠ 0 ∧ (15 : Fin 16) ≠ 0 := by decide

/-- The selectors of family 8 fall under exactly one clause each. -/
theorem witness_FamilyEightDecodesByN : ∀ n : Fin 16,
    n ∈ ([0, 1, 2, 3, 4, 5, 6, 7, 0xE] : List (Fin 16)) ↔ n ∉ ([8, 9, 0xA, 0xB, 0xC, 0xD, 0xF] : List (Fin 16)) := by decide

theorem witness_FamiliesEAndFDecodeByKk :
    (0x9F : Byte) ∉ ([0x9E, 0xA1] : List Byte) ∧
    (0x08 : Byte) ∉ ([0x07, 0x0A, 0x15, 0x18, 0x1E, 0x29, 0x33, 0x55, 0x65] : List Byte) := by decide

theorem witness_UnrecognizedWordsAreThoseListed : decode 0x5121 = .unrecognized 0x5121 ∧ unrecognizedWord 0x5121 = true := by
  decide

theorem witness_MatchAndMaskSelectTheRow :
    ((∀ nnn, Instr.addReg 1 2 ≠ .sys nnn) ∧ (∀ u, Instr.addReg 1 2 ≠ .unrecognized u) ∧
      (0x8124 : Word) &&& (tableRow (.addReg 1 2)).2 = (tableRow (.addReg 1 2)).1) ∧
    (0x0123 : Word) &&& 0xF000 = 0x0000 ∧ decode 0x812F = .unrecognized 0x812F :=
  ⟨⟨nofun, nofun, by decide⟩, by decide, by decide⟩

theorem witness_DecodeOfEncode : (Instr.drw 0xF 0xF 0xF).wellFormed = true ∧ (Instr.sys 0xFFF).wellFormed = true ∧
    (Instr.unrecognized 0xFFFF).wellFormed = true := by decide

theorem witness_StepRunsTheDecodedInstruction : ∃ s : State, s.terminate = false ∧ s.fault = .none ∧ s.keyWait = none ∧
    s.pc = 0xFFF ∧ s.nextInput.ticks = 3 ∧ s.dt = 2 :=
  ⟨{ base with pc := 0xFFF, dt := 2, script := [{ quiet with ticks := 3 }] }, rfl, rfl, rfl, rfl, rfl, rfl⟩

theorem witness_HaltedCoreTakesNoStep : (∃ s : State, s.terminate = true) ∧
    ∃ s : State, s.terminate = false ∧ s.fault ≠ .none :=
  ⟨⟨{ base with terminate := true }, rfl⟩, { base with fault := .stackOverflow }, rfl, by decide⟩

theorem witness_KeyWaitCompletesOrHolds :
    (∃ s : State, s.terminate = false ∧ s.fault = .none ∧ s.keyWait = some 15 ∧ s.nextInput.keyIn = some 15) ∧
    (∃ s : State, s.terminate = false ∧ s.fault = .none ∧ s.keyWait = some 0 ∧ s.nextInput.keyIn = none) ∧
    ∃ h : HostInput, h.keyIn = some 0 ∧ h.ticks = 2 :=
  ⟨⟨{ base with keyWait := some 15, script := [{ quiet with keyIn := some 15 }] }, rfl, rfl, rfl, rfl⟩,
    ⟨{ base with keyWait := some 0 }, rfl, rfl, rfl, rfl⟩, { quiet with keyIn := some 0, ticks := 2 }, rfl, rfl⟩

/-- One state for each outcome: both ways of being halted, held, completing, running. -/
theorem witness_StepStopsExactlyWhenHaltedOrHeld :
    (∃ s : State, s.terminate = true) ∧ (∃ s : State, s.terminate = false ∧ s.fault ≠ .none) ∧
    (∃ s : State, s.terminate = false ∧ s.fault = .none ∧ s.keyWait ≠ none ∧ s.nextInput.keyIn = none) ∧
    (∃ s : State, s.terminate = false ∧ s.fault = .none ∧ s.keyWait ≠ none ∧ s.nextInput.keyIn ≠ none) ∧
    ∃ s : State, s.terminate = false ∧ s.fault = .none ∧ s.keyWait = none :=
  ⟨⟨{ base with terminate := true }, rfl⟩, ⟨{ base with fault := .stackOverflow }, rfl, by decide⟩,
    ⟨{ base with keyWait := some 1 }, rfl, rfl, by decide, rfl⟩,
    ⟨{ base with keyWait := some 1, script := [{ quiet with keyIn := some 0 }] }, rfl, rfl, by decide, by decide⟩,
    base, rfl, rfl, rfl⟩

theorem witness_PlacedWordIsRun : ∃ s : State, s.mem.wf = true ∧ s.pc = 0xFFF ∧ s.terminate = true ∧ 65535 < 65536 :=
  ⟨{ base with pc := 0xFFF, terminate := true }, rfl, rfl, rfl, by decide⟩

theorem witness_ConstructionLoadsTheImage : (List.replicate 3584 (0 : Byte)).length ≤ 3584 ∧
    3584 < (List.replicate 3585 (0 : Byte)).length := by
  rw [List.length_replicate, List.length_replicate]
  decide

theorem witness_InvariantAtConstruction : ∃ t, construct [0x12, 0x00] = .next t := ⟨_, rfl⟩

/-- A state unlike the one after reset that meets the invariant: at the top of memory, with a full stack, waiting. -/
theorem witness_EveryStepKeepsTheInvariant : ∃ s t : State, s.Inv ∧ step s = .next t ∧ s.pc = 0xFFF ∧ s.keyWait = some 3 ∧
    s.sp = Config.stackCapacity ∧ s.mem ≠ [] := by
  refine ⟨{ State.reset with
      mem := [(0x300, 1)], pc := 0xFFF, i := 0xFFF, sp := Config.stackCapacity, keyWait := some 3,
      script := [{ quiet with keyIn := some 0 }] },
    _, ?_, rfl, rfl, rfl, rfl, by decide⟩
  constructor
  · decide
  · decide
  · decide
  · exact List.length_replicate
  · exact Nat.le_refl _
  · intro e he
    rw [List.eq_of_mem_replicate he]
    decide
  · nofun
  · intro _
    exact ⟨rfl, rfl⟩

/-- Three ticks fall after the write of 5. -/
def timerState : State :=
  withV { base with
    mem := [(0x200, 0xF0), (0x201, 0x15), (0x202, 0xF1), (0x203, 0x07)], script := [quiet, { quiet with ticks := 3 }] } [(0, 5)]

/-- The same with `Fx18` of 3: the three ticks end the tone, two would not. -/
def soundState : State :=
  withV { base with mem := [(0x200, 0xF0), (0x201, 0x18)], script := [quiet, { quiet with ticks := 3 }] } [(0, 3)]

theorem witness_TimerReadAfterWriteWindow :
    (timerState.terminate = false ∧ timerState.fault = .none ∧ timerState.keyWait = none ∧
      step timerState = .next (after timerState) ∧ decode timerState.fetchWord = .ldDtVx 0 ∧
      decode (after timerState).fetchWord = .ldVxDt 1 ∧ (after (after timerState)).readV 1 = 2) ∧
    soundState.terminate = false ∧ soundState.fault = .none ∧ soundState.keyWait = none ∧
      step soundState = .next (after soundState) ∧ decode soundState.fetchWord = .ldStVx 0 :=
  ⟨⟨rfl, rfl, rfl, rfl, by decide, by decide, by decide⟩, rfl, rfl, rfl, rfl, by decide⟩

theorem witness_TerminateOnlyByTopLevelReturn :
    (∃ t, exec .ret base = .next t ∧ t.terminate ≠ base.terminate) ∧
    (∃ t, step (at16 0x00EE) = .next t ∧ t.terminate = true) ∧ ∃ s : State, s.terminate = true :=
  ⟨⟨_, rfl, by decide⟩, ⟨_, rfl, by decide⟩, { base with terminate := true }, rfl⟩

/-- A full stack of two entries. -/
def full : State := { base with sp := 2, stack := [0x20A, 0x30C] }

theorem witness_FaultOnlyByFailedPush :
    (∃ t, exec (.call 0x400) full = .next t ∧ t.fault ≠ full.fault) ∧
    (∃ t, step (full.withFetchWord 16 0x2400) = .next t ∧ t.fault ≠ .none) ∧ ∃ s : State, s.fault ≠ .none :=
  ⟨⟨_, rfl, by decide⟩, ⟨_, rfl, by decide⟩, { base with fault := .stackOverflow }, by decide⟩

theorem witness_KeyWaitOnlyByFx0A :
    (∃ t, exec (.ldVxK 2) base = .next t ∧ t.keyWait ≠ base.keyWait) ∧
    (∃ s t : State, step s = .next t ∧ s.keyWait ≠ none) ∧
    ∃ s t : State, step s = .next t ∧ s.keyWait = none ∧ t.keyWait ≠ none :=
  ⟨⟨_, rfl, by decide⟩,
    ⟨{ base with keyWait := some 2, script := [{ quiet with keyIn := some 7 }] }, _, rfl, by decide⟩,
    at16 0xF20A, _, rfl, by decide, by decide⟩

theorem witness_DisplayReachedOnlyByClearAndDraw :
    (∃ t, (∀ x y n, Instr.ldB 0 ≠ .drw x y n) ∧ exec (.ldB 0) base = .next t ∧ Instr.ldB 0 ≠ .cls) ∧
    ∃ t, (∀ x y n, Instr.cls ≠ .drw x y n) ∧ exec .cls base = .next t := ⟨⟨_, nofun, rfl, nofun⟩, _, nofun, rfl⟩

theorem witness_MemoryReachedOnlyByTransfersAndDraw :
    (∃ t, exec (.loadRegs 1) base = .next t ∧ (∀ x, Instr.loadRegs 1 ≠ .ldB x) ∧ ∀ x, Instr.loadRegs 1 ≠ .storeRegs x) ∧
    ∃ t, exec (.storeRegs 1) base = .next t ∧ (∀ x, Instr.storeRegs 1 ≠ .loadRegs x) ∧ ∀ x y n, Instr.storeRegs 1 ≠ .drw x y n :=
  ⟨⟨_, rfl, nofun, nofun⟩, _, rfl, nofun, nofun⟩

theorem witness_StackReachedOnlyByCallAndReturn :
    (∃ t, exec .ret full = .next t ∧ (∀ nnn, Instr.ret ≠ .call nnn) ∧ full.sp ≤ full.stack.length) ∧
    ∃ t, exec (.jp 0x400) full = .next t ∧ (∀ nnn, Instr.jp 0x400 ≠ .call nnn) ∧ Instr.jp 0x400 ≠ .ret :=
  ⟨⟨_, rfl, nofun, by decide⟩, _, rfl, nofun, nofun⟩

theorem witness_IndexWrittenOnlyByThree :
    (∃ t, exec (.ldI 0xFFF) base = .next t ∧ t.i ≠ base.i) ∧ (∃ t, exec (.ldF 0) (withV base [(0, 0xFF)]) = .next t ∧ t.i ≠ base.i) ∧
    (∃ s t : State, exec (.addI 1) s = .next t ∧ s.i = 0xFFF ∧ t.i ≠ s.i) ∧
    ∃ t, step (at16 0xF11E) = .next t ∧ (at16 0xF11E).i.toNat < 0x1000 :=
  ⟨⟨_, rfl, by decide⟩, ⟨_, rfl, by decide⟩, ⟨withV { base with i := 0xFFF } [(1, 1)], _, rfl, rfl, by decide⟩, _, rfl, by decide⟩

theorem witness_TimersWrittenOnlyByTheirLoads :
    (∃ t, exec (.ldStVx 1) base = .next t ∧ ∀ x, Instr.ldStVx 1 ≠ .ldDtVx x) ∧
    ∃ t, exec (.ldDtVx 1) base = .next t ∧ ∀ x, Instr.ldDtVx 1 ≠ .ldStVx x := ⟨⟨_, rfl, nofun⟩, _, rfl, nofun⟩

theorem witness_RegistersReadAndWrittenAsListed :
    (∃ t, exec (.addReg 1 2) base = .next t ∧ (3 : Reg) ∉ registersWritten (.addReg 1 2)) ∧
    (∃ t, exec (.loadRegs 2) base = .next t ∧ (2 : Reg) ∉ registersRead (.loadRegs 2) ∧ (2 : Reg) ∈ registersWritten (.loadRegs 2)) ∧
    ∃ s t : State, exec (.ldVxK 2) s = .next t ∧ t.ports.keyIn = some 7 :=
  ⟨⟨_, rfl, by decide⟩, ⟨_, rfl, by decide, by decide⟩, { base with ports := { quiet with keyIn := some 7 } }, _, rfl, rfl⟩

theorem witness_ProgramCounterChangedOnlyByControl : ∃ t, exec (.jpV0 0x300) base = .next t ∧ t.pc ≠ base.pc :=
  ⟨_, rfl, by decide⟩

/-- Two ports that differ in everything but the keys. -/
theorem witness_PortsReachOnlyTheirInstructions : ∃ (t : State) (p : HostInput), exec (.skp 1) base = .next t ∧
    p ≠ base.ports ∧ (∀ x kk, Instr.skp 1 = .rnd x kk → p.rnd = base.ports.rnd) ∧
    ∀ x, Instr.skp 1 = .skp x ∨ Instr.skp 1 = .sknp x → p.keyDown = base.ports.keyDown :=
  ⟨_, { quiet with rnd := 1, keyIn := some 3, ticks := 5 }, rfl, fun h => absurd (congrArg HostInput.ticks h) (by decide),
    nofun, fun _ _ => rfl⟩

theorem witness_NestedCallsReturn : ([0x300, 0x400] : List Addr) ≠ [] ∧
    base.sp + ([0x300, 0x400] : List Addr).length ≤ base.stack.length := ⟨nofun, by decide⟩

/-- Both bytes, the first alone, the second alone (x = 0) and none of the block of `Fx55`, at the top of memory. -/
theorem witness_NextFetchSeesTheStore_block : ∃ t,
    State.mem { base with i := 0xFF1, pc := 0xFFF } = [] ∧ exec (.storeRegs 15) { base with i := 0xFF1, pc := 0xFFF } = .next t ∧
    effAddr t.pc 0 = effAddr 0xFF1 (14 : Reg).val ∧ effAddr t.pc 1 = effAddr 0xFF1 (15 : Reg).val ∧
    (effAddr 0x000 0 = effAddr 0xFF1 (15 : Reg).val ∧ ∀ r : Reg, r ≤ 15 → effAddr 0x000 1 ≠ effAddr 0xFF1 r.val) ∧
    ((∀ r : Reg, r ≤ 0 → effAddr 0xFF0 0 ≠ effAddr 0xFF1 r.val) ∧ effAddr 0xFF0 1 = effAddr 0xFF1 (0 : Reg).val) :=
  ⟨_, rfl, rfl, by decide, by decide, by decide, by decide⟩

/-- The same for the three digits of `Fx33`, with `PC` at each place that overlaps them. -/
theorem witness_NextFetchSeesTheStore_digits : (∃ t, base.mem.wf = true ∧ exec (.ldB 0) base = .next t) ∧
    (effAddr 0x2FF 1 = effAddr 0x300 0 ∧ ∀ j < 3, effAddr 0x2FF 0 ≠ effAddr 0x300 j) ∧
    (effAddr 0x301 0 = effAddr 0x300 1 ∧ effAddr 0x301 1 = effAddr 0x300 2) ∧
    (effAddr 0x302 0 = effAddr 0x300 2 ∧ ∀ j < 3, effAddr 0x302 1 ≠ effAddr 0x300 j) :=
  ⟨⟨_, by decide, rfl⟩, by decide, by decide, by decide⟩

theorem witness_NoOpsChangeNothing : (0x0FEE : Word) &&& 0xF000 = 0x0000 ∧ (0x0FEE : Word) ≠ 0x00E0 ∧ (0x0FEE : Word) ≠ 0x00EE := by
  decide

theorem witness_ReturnPopsOrTerminates : base.sp = 0 ∧ full.sp ≠ 0 ∧ full.sp ≤ full.stack.length ∧
    ∃ s : State, s.sp = 1 ∧ s.sp ≤ s.stack.length := ⟨rfl, by decide, by decide, { base with sp := 1 }, rfl, by decide⟩

theorem witness_CallPushesOrOverflows : (base.sp < base.stack.length ∧ base.sp = 0) ∧ full.sp = full.stack.length ∧
    ∃ s : State, s.sp < s.stack.length ∧ s.sp + 1 = s.stack.length := by
  exact ⟨by decide, by decide, { base with sp := 1 }, by decide, by decide⟩

/-- Both outcomes of each compare. -/
theorem witness_ComparesSkipOneWord : base.readV 1 = 0 ∧ base.readV 1 ≠ 5 ∧ base.readV 1 = base.readV 2 ∧
    (withV base [(2, 5)]).readV 1 ≠ (withV base [(2, 5)]).readV 2 := by decide

theorem witness_AddWithCarry : (1 : Reg) ≠ regF := by decide

theorem witness_SubtractionsWithStrictFlag : (1 : Reg) ≠ regF := by decide

theorem witness_ShiftsByOneBit : (1 : Reg) ≠ regF := by decide

theorem witness_DecimalDigitsStored : ({ base with i := 0xFFF } : State).mem.wf = true ∧
    ∀ k < 3, (0x002 : Addr) ≠ effAddr 0xFFF k := by decide

theorem witness_RegisterBlockStored : ({ base with i := 0xFF8 } : State).mem.wf = true ∧ (15 : Reg) ≤ 15 ∧
    ∀ r : Reg, r ≤ 15 → (0x008 : Addr) ≠ effAddr 0xFF8 r.val := by decide

theorem witness_RegisterBlockLoaded : (0 : Reg) ≤ 0 ∧ ¬(1 : Reg) ≤ 0 := by decide

/-- A sprite byte 0xC0 at I = 0x300 with (0, 0) on, and the same on a clear display. -/
def drawState (on : Bool) : State :=
  withMem (withOn { base with i := 0x300 } (if on then [(0, 0), (0, 1)] else [])) [(0x300, 0xC0)]

theorem witness_DrawFlipsTheSpritePixels :
    (spriteCovers (drawState true) 0 1 1 0 1 = true ∧ (drawState true).pixel 0 1 = true) ∧
    spriteCovers (drawState false) 0 1 1 0 1 = true ∧
    ∀ r c, spriteCovers (drawState false) 0 1 1 r c = true → (drawState false).pixel r c = false :=
  ⟨by decide, by decide, fun r c _ => Display.pixel_clear r c⟩

theorem witness_DrawTwiceRestoresTheDisplay :
    (∃ t, exec (.drw 0 1 1) (drawState false) = .next t ∧ spriteCovers (drawState false) 0 1 1 5 5 = false ∧
      t.readV 0 = (drawState false).readV 0 ∧ t.readV 1 = (drawState false).readV 1 ∧ t.i = (drawState false).i ∧
      (∀ a, t.readByte a = (drawState false).readByte a) ∧ (drawState false).pixel 0 0 = false ∧
      spriteCovers (drawState false) 0 1 1 0 0 = true ∧
      ∀ r c, spriteCovers (drawState false) 0 1 1 r c = true → (drawState false).pixel r c = false) ∧
    ∃ t, exec (.drw 0 1 0) (drawState true) = .next t ∧
      ∀ r c, spriteCovers (drawState true) 0 1 0 r c = true → (drawState true).pixel r c = true := by
  refine ⟨⟨_, rfl, by decide, by decide, by decide, rfl, fun _ => rfl, by decide, by decide,
    fun r c _ => Display.pixel_clear r c⟩, _, rfl, fun r c h => ?_⟩
  simp [spriteCovers] at h

/-- The VF = 0 clause with a sprite of one row: both pixels under its set bits are on. -/
theorem witness_DrawTwiceRestoresTheDisplay_on : ∃ t, exec (.drw 0 1 1) (drawState true) = .next t ∧
    spriteCovers (drawState true) 0 1 1 0 0 = true ∧
    ∀ r c, spriteCovers (drawState true) 0 1 1 r c = true → (drawState true).pixel r c = true := by
  refine ⟨_, rfl, by decide, fun r c h => ?_⟩
  revert r c
  decide

theorem witness_KeySkipsFollowTheHost :
    (∃ s : State, s.readV 2 = 0x10 ∧ s.keyDown (s.readV 2) = true) ∧ base.keyDown (base.readV 2) = false :=
  ⟨⟨withV { base with ports := { quiet with keyDown := (Vector.replicate 256 false).set 16 true } } [(2, 0x10)],
    by decide, by decide⟩, by decide⟩

end Sys2Proof.Tests
end

section
/-! PROOFS. What a handler gives, said once, and what a step that answers a next state can have been. Every later proof
speaks of `effect i s` and of these cases, and does not unfold `exec` or `step`. -/

namespace Sys2Proof.Machine

/-- The state that the handler of an instruction leaves: handlers are total (R220). -/
def effect : Instr → State → State
  | .cls, s => s.clearDisplay
  | .ret, s => s.popAndGo
  | .sys _, s => s
  | .jp nnn, s => s.setPc (zext16 nnn)
  | .call nnn, s => s.pushAndGo (zext16 nnn)
  | .seImm x kk, s => s.skipIf (s.readV x == kk)
  | .sneImm x kk, s => s.skipIf (s.readV x != kk)
  | .seReg x y, s => s.skipIf (s.readV x == s.readV y)
  | .ldImm x kk, s => s.writeV x kk
  | .addImm x kk, s => s.writeV x (s.readV x + kk)
  | .ldReg x y, s => s.writeV x (s.readV y)
  | .orReg x y, s => s.writeV x (s.readV x ||| s.readV y)
  | .andReg x y, s => s.writeV x (s.readV x &&& s.readV y)
  | .xorReg x y, s => s.writeV x (s.readV x ^^^ s.readV y)
  | .addReg x y, s => s.writeResultFlag x (s.readV x + s.readV y) (carryOut (s.readV x) (s.readV y))
  | .sub x y, s => s.writeResultFlag x (s.readV x - s.readV y) (notBorrow (s.readV x) (s.readV y))
  | .shr x _, s => s.writeResultFlag x (s.readV x >>> 1) (lowBitOut (s.readV x))
  | .subn x y, s => s.writeResultFlag x (s.readV y - s.readV x) (notBorrow (s.readV y) (s.readV x))
  | .shl x _, s => s.writeResultFlag x (s.readV x <<< 1) (highBitOut (s.readV x))
  | .sneReg x y, s => s.skipIf (s.readV x != s.readV y)
  | .ldI nnn, s => s.setI (zext16 nnn)
  | .jpV0 nnn, s => s.setPc (jumpV0Target (s.readV 0) nnn)
  | .rnd x kk, s => s.writeV x (s.ports.rnd &&& kk)
  | .drw x y n, s => s.drawSprite (s.readV x).toNat (s.readV y).toNat (s.readBlock s.i n.val)
  | .skp x, s => s.skipIf (s.keyDown (s.readV x))
  | .sknp x, s => s.skipIf (!s.keyDown (s.readV x))
  | .ldVxDt x, s => s.writeV x s.dt
  | .ldVxK x, s => s.setKeyWait (some x)
  | .ldDtVx x, s => s.setDt (s.readV x)
  | .ldStVx x, s => s.setSt (s.readV x)
  | .addI x, s => s.setI (indexSum s.i (s.readV x))
  | .ldF x, s => s.setI (glyphAddr (s.readV x))
  | .ldB x, s => s.writeBlock s.i (digits (s.readV x))
  | .storeRegs x, s => s.writeBlock s.i (s.regsTo x)
  | .loadRegs x, s => s.loadRegBlock (s.readBlock s.i (x.val + 1))
  | .unrecognized _, s => s

/-- `effect` is what the model's handler answers, for every instruction and every state. -/
theorem exec_eq_next_effect (i : Instr) (s : State) : exec i s = .next (effect i s) := by
  cases i <;> rfl

theorem exec_eq_next_iff {i : Instr} {s t : State} : exec i s = .next t ↔ t = effect i s := by
  rw [exec_eq_next_effect, Host.Outcome.next.injEq, eq_comm]

/-- A step that answers a next state is of a running core: it completed a key-wait, or it ran a handler (R107, R110). -/
theorem step_next_cases {s t : State} (h : step s = .next t) :
    s.terminate = false ∧ s.fault = .none ∧
      ((∃ x k, s.keyWait = some x ∧ s.nextInput.keyIn = some k ∧ t = s.hostTurn.completeKeyWait x k) ∨
       (s.keyWait = none ∧ t = effect (decode s.fetchWord) s.hostTurn.advancePc)) := by
  rcases step_cases s with ⟨f, -, hf⟩ | ⟨h0, x, k, hx, hk, hn⟩ | ⟨-, x, -, -, hf⟩ | ⟨h0, hx, hn⟩
  · rw [hf] at h; cases h
  · obtain ⟨ht, hf⟩ := (State.haltedBy_none s).1 h0
    rw [hn] at h
    exact ⟨ht, hf, .inl ⟨x, k, hx, hk, by cases h; rfl⟩⟩
  · rw [hf] at h; cases h
  · obtain ⟨ht, hf⟩ := (State.haltedBy_none s).1 h0
    rw [hn] at h
    exact ⟨ht, hf, .inr ⟨hx, exec_eq_next_iff.1 h⟩⟩

end Sys2Proof.Machine
end

section
/-! PROOFS. The invariant of the reachable states, operation by operation, then for a handler, a step and a tick
(R36, R38, R39, R227, R228). -/

namespace Sys2Proof.Machine

namespace State.Inv

variable {s : State}

theorem writeV (h : s.Inv) (r : Reg) (b : Byte) : (s.writeV r b).Inv := { h with }

theorem writeResultFlag (h : s.Inv) (x : Reg) (b : Byte) (f : Bool) : (s.writeResultFlag x b f).Inv :=
  (h.writeV x b).writeV regF (flagByte f)

theorem loadRegBlock (h : s.Inv) (bs : List Byte) : (s.loadRegBlock bs).Inv := { h with }

theorem clearDisplay (h : s.Inv) : s.clearDisplay.Inv := { h with }

theorem drawSprite (h : s.Inv) (cx cy : Nat) (rows : List Byte) : (s.drawSprite cx cy rows).Inv := { h with }

theorem setDt (h : s.Inv) (b : Byte) : (s.setDt b).Inv := { h with }

theorem setSt (h : s.Inv) (b : Byte) : (s.setSt b).Inv := { h with }

theorem tick (h : s.Inv) : s.tick.Inv := { h with }

theorem hostTurn (h : s.Inv) : s.hostTurn.Inv := { h with }

theorem writeBlock (h : s.Inv) (base : Word) (bs : List Byte) : (s.writeBlock base bs).Inv :=
  { h with mem_wf := Memory.putBlock_wf h.mem_wf base 0 bs }

theorem setPc (h : s.Inv) {target : Word} (ht : target.toNat < 4096) : (s.setPc target).Inv := { h with pc_lt := ht }

theorem setI (h : s.Inv) {w : Word} (hw : w.toNat < 4096) : (s.setI w).Inv := { h with i_lt := hw }

theorem advancePc (h : s.Inv) : s.advancePc.Inv :=
  h.setPc (by rw [toNat_advance]; omega)

theorem skipIf (h : s.Inv) (cond : Bool) : (s.skipIf cond).Inv := by
  cases cond
  · exact h
  · exact h.advancePc

/-- Starting a wait needs a running core. -/
theorem setKeyWait (h : s.Inv) (w : Option Reg) (hrun : s.terminate = false ∧ s.fault = .none) : (s.setKeyWait w).Inv :=
  { h with wait_running := fun _ => hrun }

/-- Ending a wait does not. -/
theorem completeKeyWait (h : s.Inv) (x : Reg) (k : Key) : (s.completeKeyWait x k).Inv :=
  { h with wait_running := fun hw => absurd rfl hw }

/-- A stack slot, an absent one included, holds a 12-bit address. -/
theorem getD_stack_lt (h : s.Inv) (j : Nat) : (s.stack.getD j 0).toNat < 4096 := by
  rw [List.getD_eq_getElem?_getD]
  cases hj : s.stack[j]? with
  | none => decide
  | some e => exact h.entry_lt e (List.mem_of_getElem? hj)

/-- A push below the capacity stores an address; on a full stack it faults a core that has not ended. -/
theorem pushAndGo (h : s.Inv) {target : Word} (ht : target.toNat < 4096) (hterm : s.terminate = false)
    (hwait : s.keyWait = none) : (s.pushAndGo target).Inv := by
  rcases s.pushAndGo_cases target with ⟨hsp, heq⟩ | ⟨-, heq⟩ <;> rw [heq]
  · refine { h with pc_lt := ht, stack_length := ?_, sp_le := h.stack_length ▸ hsp, entry_lt := fun e he => ?_ }
    · rw [List.length_set, h.stack_length]
    · rcases List.mem_or_eq_of_mem_set he with hmem | rfl
      · exact h.entry_lt e hmem
      · exact h.pc_lt
  · exact { h with
      not_both := fun hterm' => absurd hterm' (by simp [hterm])
      wait_running := fun hw => absurd hwait hw }

/-- A pop goes to a stored address; on an empty stack it ends a core that has not faulted. -/
theorem popAndGo (h : s.Inv) (hfault : s.fault = .none) (hwait : s.keyWait = none) : s.popAndGo.Inv := by
  rcases s.popAndGo_cases with ⟨-, heq⟩ | ⟨-, heq⟩ <;> rw [heq]
  · exact { h with
      not_both := fun _ => hfault
      wait_running := fun hw => absurd hwait hw }
  · exact { h with
      pc_lt := h.getD_stack_lt (s.sp - 1)
      sp_le := (Nat.sub_le s.sp 1).trans h.sp_le }

/-- Every handler keeps the invariant of a running core that waits for no key. -/
theorem effect (h : s.Inv) (hterm : s.terminate = false) (hfault : s.fault = .none) (hwait : s.keyWait = none)
    (i : Instr) : (effect i s).Inv := by
  cases i with
  | cls => exact h.clearDisplay
  | ret => exact h.popAndGo hfault hwait
  | sys | unrecognized => exact h
  | jp nnn => exact h.setPc (by rw [toNat_zext16]; omega)
  | jpV0 nnn => exact h.setPc (by rw [toNat_jumpV0Target]; omega)
  | call nnn => exact h.pushAndGo (by rw [toNat_zext16]; omega) hterm hwait
  | seImm | sneImm | seReg | sneReg | skp | sknp => exact h.skipIf _
  | ldImm | addImm | ldReg | orReg | andReg | xorReg | rnd | ldVxDt => exact h.writeV _ _
  | addReg | sub | shr | subn | shl => exact h.writeResultFlag _ _ _
  | ldI nnn => exact h.setI (by rw [toNat_zext16]; omega)
  | addI x => exact h.setI (by rw [toNat_indexSum]; omega)
  | ldF x => exact h.setI (by rw [toNat_glyphAddr]; omega)
  | drw => exact h.drawSprite _ _ _
  | ldVxK x => exact h.setKeyWait (some x) ⟨hterm, hfault⟩
  | ldDtVx => exact h.setDt _
  | ldStVx => exact h.setSt _
  | ldB | storeRegs => exact h.writeBlock _ _
  | loadRegs => exact h.loadRegBlock _

theorem step (h : s.Inv) {t : State} (hstep : step s = .next t) : t.Inv := by
  obtain ⟨hterm, hfault, ⟨x, k, -, -, rfl⟩ | ⟨hwait, rfl⟩⟩ := step_next_cases hstep
  · exact h.hostTurn.completeKeyWait x k
  · exact h.hostTurn.advancePc.effect hterm hfault hwait _

end State.Inv

/-- Settles O20: the invariant is kept by each operation, so by each handler, so by each step; a tick moves only timers. -/
theorem everyStepKeepsTheInvariant : Obligations.EveryStepKeepsTheInvariant :=
  fun _ h => ⟨fun _ hstep => h.step hstep, h.tick⟩

/-- Settles O18, field by field. -/
theorem invariantAtReset : Obligations.InvariantAtReset where
  mem_wf := rfl
  pc_lt := by decide
  i_lt := by decide
  stack_length := List.length_replicate
  sp_le := Nat.zero_le _
  entry_lt e he := by rw [List.eq_of_mem_replicate he]; decide
  not_both h := absurd h (by decide)
  wait_running h := absurd rfl h

end Sys2Proof.Machine
end

section
/-! PROOFS. Which handler can change which field (R37, R38, R39, R46, R47, R48, R50), and what follows for a step. -/

namespace Sys2Proof.Machine

variable {i : Instr} (s : State)

/-! ### One field at a time: what every handler but the named ones leaves as it was -/

theorem effect_dt (h : ∀ x, i ≠ .ldDtVx x) : (effect i s).dt = s.dt := by
  cases i with
  | ldDtVx x => exact absurd rfl (h x)
  | _ => simp [effect]

theorem effect_st (h : ∀ x, i ≠ .ldStVx x) : (effect i s).st = s.st := by
  cases i with
  | ldStVx x => exact absurd rfl (h x)
  | _ => simp [effect]

theorem effect_terminate (h : i ≠ .ret) : (effect i s).terminate = s.terminate := by
  cases i with
  | ret => exact absurd rfl h
  | _ => simp [effect]

theorem effect_fault (h : ∀ nnn, i ≠ .call nnn) : (effect i s).fault = s.fault := by
  cases i with
  | call nnn => exact absurd rfl (h nnn)
  | _ => simp [effect]

theorem effect_keyWait (h : ∀ x, i ≠ .ldVxK x) : (effect i s).keyWait = s.keyWait := by
  cases i with
  | ldVxK x => exact absurd rfl (h x)
  | _ => simp [effect]

theorem effect_stack (h : ∀ nnn, i ≠ .call nnn) : (effect i s).stack = s.stack := by
  cases i with
  | call nnn => exact absurd rfl (h nnn)
  | _ => simp [effect]

theorem effect_sp (hcall : ∀ nnn, i ≠ .call nnn) (hret : i ≠ .ret) : (effect i s).sp = s.sp := by
  cases i with
  | call nnn => exact absurd rfl (hcall nnn)
  | ret => exact absurd rfl hret
  | _ => simp [effect]

/-! ### The changed values -/

variable {s}

theorem effect_terminate_ne (h : (effect i s).terminate ≠ s.terminate) :
    i = .ret ∧ s.sp = 0 ∧ (effect i s).terminate = true := by
  by_cases hi : i = .ret
  · subst hi
    rcases s.popAndGo_cases with ⟨hsp, heq⟩ | ⟨-, heq⟩
    · exact ⟨rfl, hsp, by rw [effect, heq]⟩
    · exact absurd (by rw [effect, heq]) h
  · exact absurd (effect_terminate s hi) h

theorem effect_fault_ne (h : (effect i s).fault ≠ s.fault) :
    (∃ nnn, i = .call nnn) ∧ s.stack.length ≤ s.sp ∧ (effect i s).fault = .stackOverflow := by
  by_cases hi : ∃ nnn, i = .call nnn
  · obtain ⟨nnn, rfl⟩ := hi
    rcases s.pushAndGo_cases (zext16 nnn) with ⟨-, heq⟩ | ⟨hsp, heq⟩
    · exact absurd (by rw [effect, heq]) h
    · exact ⟨⟨nnn, rfl⟩, hsp, by rw [effect, heq]⟩
  · exact absurd (effect_fault s (not_exists.1 hi)) h

theorem effect_keyWait_ne (h : (effect i s).keyWait ≠ s.keyWait) :
    ∃ x, i = .ldVxK x ∧ (effect i s).keyWait = some x := by
  by_cases hi : ∃ x, i = .ldVxK x
  · obtain ⟨x, rfl⟩ := hi
    exact ⟨x, rfl, rfl⟩
  · exact absurd (effect_keyWait s (not_exists.1 hi)) h

/-- `Fx1E`'s sum mod 4096 is its mask to 12 bits (R172). -/
theorem indexSum_eq_and_mask (w : Word) (b : Byte) : indexSum w b = BitVec.ofNat 16 (w.toNat + b.toNat) &&& 0xFFF := by
  apply BitVec.eq_of_toNat_eq
  rw [toNat_indexSum, BitVec.toNat_and, show (0xFFF : Word).toNat = 2 ^ 12 - 1 from rfl, Nat.and_two_pow_sub_one_eq_mod,
    BitVec.toNat_ofNat, Nat.mod_mod_of_dvd _ (by decide)]

theorem effect_i_cases (i : Instr) (s : State) :
    (effect i s).i = s.i ∨
    (∃ nnn, i = .ldI nnn ∧ (effect i s).i = zext16 nnn) ∨
    (∃ x, i = .addI x ∧ (effect i s).i = indexSum s.i (s.readV x)) ∨
    (∃ x, i = .ldF x ∧ (effect i s).i = glyphAddr (s.readV x)) := by
  cases i with
  | ldI nnn => exact .inr (.inl ⟨nnn, rfl, rfl⟩)
  | addI x => exact .inr (.inr (.inl ⟨x, rfl, rfl⟩))
  | ldF x => exact .inr (.inr (.inr ⟨x, rfl, rfl⟩))
  | _ => exact .inl (by simp [effect])

/-- Whatever a handler writes to `I` is a 12-bit value (R38). -/
theorem effect_i_eq_or_lt (i : Instr) (s : State) : (effect i s).i = s.i ∨ (effect i s).i.toNat < 4096 := by
  rcases effect_i_cases i s with h | ⟨nnn, -, h⟩ | ⟨x, -, h⟩ | ⟨x, -, h⟩
  · exact .inl h
  · right; rw [h, toNat_zext16]; omega
  · right; rw [h, toNat_indexSum]; omega
  · right; rw [h, toNat_glyphAddr]; omega

/-- A handler leaves every stack entry but the one at `SP`, and their number (R39, R40). -/
theorem effect_stack_getElem? (i : Instr) (s : State) :
    (effect i s).stack.length = s.stack.length ∧ ∀ j, j ≠ s.sp → (effect i s).stack[j]? = s.stack[j]? := by
  by_cases hi : ∃ nnn, i = .call nnn
  · obtain ⟨nnn, rfl⟩ := hi
    rcases s.pushAndGo_cases (zext16 nnn) with ⟨-, heq⟩ | ⟨-, heq⟩ <;> rw [effect, heq]
    · exact ⟨List.length_set, fun j hj => List.getElem?_set_ne hj.symm⟩
    · exact ⟨rfl, fun _ _ => rfl⟩
  · rw [effect_stack s (not_exists.1 hi)]
    exact ⟨rfl, fun _ _ => rfl⟩

/-- A handler keeps the bound of `SP` (R39). -/
theorem effect_sp_le (i : Instr) (h : s.sp ≤ s.stack.length) : (effect i s).sp ≤ s.stack.length := by
  by_cases hcall : ∃ nnn, i = .call nnn
  · obtain ⟨nnn, rfl⟩ := hcall
    rcases s.pushAndGo_cases (zext16 nnn) with ⟨hlt, heq⟩ | ⟨-, heq⟩ <;> rw [effect, heq]
    · exact hlt
    · exact h
  · by_cases hret : i = .ret
    · subst hret
      rcases s.popAndGo_cases with ⟨-, heq⟩ | ⟨-, heq⟩ <;> rw [effect, heq]
      · exact h
      · exact (Nat.sub_le s.sp 1).trans h
    · rw [effect_sp s (not_exists.1 hcall) hret]
      exact h

/-! ### The handlers read the stack in `2nnn` and `00EE` only -/

/-- For every other handler another stack is left as it was found, and the rest of the effect is the same. -/
theorem effect_withStack (hcall : ∀ nnn, i ≠ .call nnn) (hret : i ≠ .ret) (s : State) (entries : List Word) (n : Nat) :
    effect i { s with stack := entries, sp := n } = { effect i s with stack := entries, sp := n } := by
  cases i with
  | call nnn => exact absurd rfl (hcall nnn)
  | ret => exact absurd rfl hret
  | _ => rfl

theorem UnchangedBut.withStack (t : State) (entries : List Word) (n : Nat) :
    UnchangedBut [.stack, .sp] t { t with stack := entries, sp := n } := by
  constructor <;> simp [State.readV, State.readByte, State.pixel]

end Sys2Proof.Machine
end

section
/-! PROOFS. The obligations about single fields: what writes them. -/

namespace Sys2Proof.Machine

/-- Settles O24: a handler changes `terminate` only by the pop of an empty stack, and a step runs at most one handler. -/
theorem terminateOnlyByTopLevelReturn : Obligations.TerminateOnlyByTopLevelReturn := by
  intro s t
  refine ⟨fun i h hne => ?_, fun h ht => ?_, fun hs h => ?_⟩
  · obtain rfl := exec_eq_next_iff.1 h
    exact effect_terminate_ne hne
  · obtain ⟨hterm, -, ⟨x, k, -, -, rfl⟩ | ⟨hwait, rfl⟩⟩ := step_next_cases h
    · exact absurd (hterm.symm.trans ht) (by decide)
    · have hne : (effect (decode s.fetchWord) s.hostTurn.advancePc).terminate ≠ s.hostTurn.advancePc.terminate := by
        simp [ht, hterm]
      obtain ⟨hret, hsp, -⟩ := effect_terminate_ne hne
      exact ⟨hwait, hret, hsp⟩
  · obtain ⟨hterm, -⟩ := step_next_cases h
    exact absurd (hterm.symm.trans hs) (by decide)

/-- Settles O25: a handler changes `fault` only by the push on a full stack, and a step runs at most one handler. -/
theorem faultOnlyByFailedPush : Obligations.FaultOnlyByFailedPush := by
  intro s t
  refine ⟨fun i h hne => ?_, fun h ht => ?_, fun hs h => ?_⟩
  · obtain rfl := exec_eq_next_iff.1 h
    exact effect_fault_ne hne
  · obtain ⟨-, hfault, ⟨x, k, -, -, rfl⟩ | ⟨hwait, rfl⟩⟩ := step_next_cases h
    · exact absurd hfault ht
    · have hne : (effect (decode s.fetchWord) s.hostTurn.advancePc).fault ≠ s.hostTurn.advancePc.fault := by
        simpa [hfault] using ht
      obtain ⟨hcall, hsp, -⟩ := effect_fault_ne hne
      exact ⟨hwait, hcall, hsp⟩
  · obtain ⟨-, hfault, -⟩ := step_next_cases h
    exact hs hfault

/-- Settles O26: only the handler of `Fx0A` changes `keyWait`, and a waiting core's step is the completion. -/
theorem keyWaitOnlyByFx0A : Obligations.KeyWaitOnlyByFx0A := by
  intro s t
  refine ⟨fun i h hne => ?_, fun h hs => ?_, fun h hs ht => ?_, by rw [State.needKey, Option.isSome_iff_ne_none]⟩
  · obtain rfl := exec_eq_next_iff.1 h
    exact effect_keyWait_ne hne
  · obtain ⟨-, -, ⟨x, k, -, hk, rfl⟩ | ⟨hwait, -⟩⟩ := step_next_cases h
    · exact ⟨rfl, k, hk⟩
    · exact absurd hwait hs
  · obtain ⟨-, -, ⟨x, k, hx, -⟩ | ⟨-, rfl⟩⟩ := step_next_cases h
    · exact absurd (hs.symm.trans hx) (by simp)
    · have hne : (effect (decode s.fetchWord) s.hostTurn.advancePc).keyWait ≠ s.hostTurn.advancePc.keyWait := by
        simpa [hs] using ht
      obtain ⟨x, hi, -⟩ := effect_keyWait_ne hne
      exact ⟨x, hi⟩

/-- Settles O29, with the push and the pop as the two cases that touch the stack. -/
theorem stackReachedOnlyByCallAndReturn : Obligations.StackReachedOnlyByCallAndReturn := by
  intro i s t h
  obtain rfl := exec_eq_next_iff.1 h
  obtain ⟨hlen, hentries⟩ := effect_stack_getElem? i s
  exact ⟨effect_stack s, effect_sp s, ⟨hlen, hentries⟩, fun hsp => hlen ▸ effect_sp_le i hsp,
    fun hcall hret entries n =>
      ⟨_, exec_eq_next_iff.2 (effect_withStack hcall hret s entries n).symm, .withStack _ entries n, rfl, rfl⟩⟩

/-- Settles O30: the three writers of `I` with their values, each of 12 bits. -/
theorem indexWrittenOnlyByThree : Obligations.IndexWrittenOnlyByThree := by
  refine ⟨rfl, fun s t => ⟨fun i h hne => ?_, fun i h hne => ?_, fun h hs => ?_⟩⟩
  · obtain rfl := exec_eq_next_iff.1 h
    rcases effect_i_cases i s with heq | ⟨nnn, hi, heq⟩ | ⟨x, hi, heq⟩ | ⟨x, hi, heq⟩
    · exact absurd heq hne
    · exact .inl ⟨nnn, hi, by rw [heq, toNat_zext16]⟩
    · exact .inr (.inl ⟨x, hi, by rw [heq, indexSum_eq_and_mask]⟩)
    · exact .inr (.inr ⟨x, hi, by rw [heq, toNat_glyphAddr]⟩)
  · obtain rfl := exec_eq_next_iff.1 h
    exact Nat.le_of_lt_succ ((effect_i_eq_or_lt i s).resolve_left hne)
  · obtain ⟨-, -, ⟨x, k, -, -, rfl⟩ | ⟨-, rfl⟩⟩ := step_next_cases h
    · exact hs
    · rcases effect_i_eq_or_lt (decode s.fetchWord) s.hostTurn.advancePc with heq | hlt
      · rw [heq]; exact hs
      · exact hlt

/-- Settles O31, from the frame of each timer. -/
theorem timersWrittenOnlyByTheirLoads : Obligations.TimersWrittenOnlyByTheirLoads := by
  intro i s t h
  obtain rfl := exec_eq_next_iff.1 h
  exact ⟨effect_dt s, effect_st s⟩

/-- Settles O33: the handlers named move `PC`; each of the others leaves it as the fetch advance did. -/
theorem programCounterChangedOnlyByControl : Obligations.ProgramCounterChangedOnlyByControl := by
  intro i s t h hpc
  obtain rfl := exec_eq_next_iff.1 h
  cases i with
  | ret => exact .inl rfl
  | jp nnn => exact .inr (.inl ⟨nnn, .inl rfl⟩)
  | call nnn => exact .inr (.inl ⟨nnn, .inr (.inl rfl)⟩)
  | jpV0 nnn => exact .inr (.inl ⟨nnn, .inr (.inr rfl)⟩)
  | seImm x kk => exact .inr (.inr (.inl ⟨x, kk, .inl rfl⟩))
  | sneImm x kk => exact .inr (.inr (.inl ⟨x, kk, .inr rfl⟩))
  | seReg x y => exact .inr (.inr (.inr (.inl ⟨x, y, .inl rfl⟩)))
  | sneReg x y => exact .inr (.inr (.inr (.inl ⟨x, y, .inr rfl⟩)))
  | skp x => exact .inr (.inr (.inr (.inr ⟨x, .inl rfl⟩)))
  | sknp x => exact .inr (.inr (.inr (.inr ⟨x, .inr rfl⟩)))
  | _ => exact absurd (by simp [effect]) hpc

end Sys2Proof.Machine
end

section
/-! PROOFS. The general registers (R32, R34): each operation after a write of register `r` is the operation before it, with
the write then lost where the operation writes `r` itself; so a handler that does not read `r` commutes with the write. -/

namespace Sys2Proof.Machine

variable (s : State) (r : Reg) (b : Byte)

/-- Two states that differ at most in the register file, and read the same in every register, are the same. -/
theorem State.eq_of_readV {t u : State} (h : t = { u with v := t.v }) (hv : ∀ q, t.readV q = u.readV q) : t = u := by
  have hfile : t.v = u.v := Vector.ext fun k hk => hv ⟨k, hk⟩
  rw [h, hfile]

theorem State.writeV_writeV (x : Reg) (c : Byte) :
    (s.writeV r b).writeV x c = if r = x then s.writeV x c else (s.writeV x c).writeV r b := by
  split <;> exact State.eq_of_readV rfl fun q => by grind [State.readV_writeV]

theorem State.writeResultFlag_writeV (x : Reg) (c : Byte) (f : Bool) :
    (s.writeV r b).writeResultFlag x c f =
      if r = x ∨ r = regF then s.writeResultFlag x c f else (s.writeResultFlag x c f).writeV r b := by
  split <;> exact State.eq_of_readV rfl fun q => by grind [State.readV_writeV, State.readV_writeResultFlag]

theorem State.drawSprite_writeV (cx cy : Nat) (rows : List Byte) :
    (s.writeV r b).drawSprite cx cy rows =
      if r = regF then s.drawSprite cx cy rows else (s.drawSprite cx cy rows).writeV r b :=
  State.writeV_writeV { s with disp := (drawRows cx cy rows (s.disp, false)).1 } r b regF _

theorem State.readV_loadRegBlock {bs : List Byte} (h : bs.length ≤ 16) (q : Reg) :
    (s.loadRegBlock bs).readV q = if hq : q.val < bs.length then bs[q.val] else s.readV q := by
  have := RegFile.get_load s.v 0 bs (by omega) q
  simpa [State.readV] using this

theorem State.loadRegBlock_writeV {bs : List Byte} (h : bs.length ≤ 16) :
    (s.writeV r b).loadRegBlock bs =
      if r.val < bs.length then s.loadRegBlock bs else (s.loadRegBlock bs).writeV r b := by
  split <;> exact State.eq_of_readV rfl fun q => by grind [State.readV_writeV, State.readV_loadRegBlock]

theorem State.regsTo_writeV {x : Reg} (h : ¬ r ≤ x) : (s.writeV r b).regsTo x = s.regsTo x := by
  refine List.map_congr_left fun k hk => State.readV_writeV_ne s b fun heq => h ?_
  have hkx : k < x.val + 1 := List.mem_range.1 hk
  have hval : k % 16 = r.val := congrArg Fin.val heq
  show r.val ≤ x.val
  omega

theorem State.pushAndGo_writeV (w : Word) : (s.writeV r b).pushAndGo w = (s.pushAndGo w).writeV r b := by
  rcases s.pushAndGo_cases w with ⟨h, heq⟩ | ⟨h, heq⟩ <;> rw [heq]
  · exact if_pos h
  · exact if_neg (Nat.not_lt.2 h)

theorem State.popAndGo_writeV : (s.writeV r b).popAndGo = s.popAndGo.writeV r b := by
  rcases s.popAndGo_cases with ⟨h, heq⟩ | ⟨h, heq⟩ <;> rw [heq]
  · exact if_pos h
  · exact if_neg h

variable {r}

/-- A handler that does not read `r` commutes with a write of `r`, which is lost where the handler writes `r` (R34). -/
theorem effect_writeV {i : Instr} (hr : r ∉ registersRead i) :
    effect i (s.writeV r b) = if r ∈ registersWritten i then effect i s else (effect i s).writeV r b := by
  have hread : ∀ x ∈ registersRead i, (s.writeV r b).readV x = s.readV x := fun x hx =>
    s.readV_writeV_ne b (ne_of_mem_of_not_mem hx hr)
  cases i with
  | cls | sys | jp | ldI | ldVxK | unrecognized => rfl
  | ret => exact s.popAndGo_writeV r b
  | call nnn => exact s.pushAndGo_writeV r b _
  | seImm | sneImm | seReg | sneReg | jpV0 | skp | sknp | ldDtVx | ldStVx | addI | ldF | ldB =>
    simp only [registersRead, List.forall_mem_cons] at hread
    simp only [effect, hread]
    rfl
  | ldImm | addImm | ldReg | orReg | andReg | xorReg | rnd | ldVxDt =>
    simp only [registersRead, List.forall_mem_cons] at hread
    simp only [effect, hread, registersWritten, List.mem_singleton]
    exact s.writeV_writeV r b _ _
  | addReg | sub | shr | subn | shl =>
    simp only [registersRead, List.forall_mem_cons] at hread
    simp only [effect, hread, registersWritten, List.mem_pair]
    exact s.writeResultFlag_writeV r b _ _ _
  | drw =>
    simp only [registersRead, List.forall_mem_cons] at hread
    simp only [effect, hread, registersWritten, List.mem_singleton]
    exact s.drawSprite_writeV r b _ _ _
  | storeRegs x =>
    rw [registersRead, mem_regsUpTo] at hr
    rw [effect, s.regsTo_writeV r b hr]
    rfl
  | loadRegs x =>
    have hmem : r ∈ registersWritten (.loadRegs x) ↔ r.val < (s.readBlock s.i (x.val + 1)).length := by
      rw [registersWritten, mem_regsUpTo, State.length_readBlock, Nat.lt_succ_iff, Fin.le_def]
    simp only [hmem]
    exact s.loadRegBlock_writeV r b (by rw [State.length_readBlock]; omega)

/-- A handler leaves every register outside its write list (R34). -/
theorem effect_readV {i : Instr} (hr : r ∉ registersWritten i) : (effect i s).readV r = s.readV r := by
  cases i with
  | cls | sys | jp | seImm | sneImm | seReg | sneReg | ldI | jpV0 | skp | sknp | ldVxK | ldDtVx | ldStVx | addI | ldF
  | ldB | storeRegs | unrecognized => rfl
  | ret => exact s.popAndGo_readV r
  | call nnn => exact s.pushAndGo_readV _ r
  | ldImm | addImm | ldReg | orReg | andReg | xorReg | rnd | ldVxDt =>
    rw [registersWritten, List.mem_singleton] at hr
    exact s.readV_writeV_ne _ hr
  | addReg | sub | shr | subn | shl =>
    rw [registersWritten, List.mem_pair, not_or] at hr
    rw [effect, State.readV_writeResultFlag, if_neg hr.2, if_neg hr.1]
  | drw x y n =>
    rw [registersWritten, List.mem_singleton] at hr
    exact State.readV_writeV_ne _ _ hr
  | loadRegs x =>
    rw [registersWritten, mem_regsUpTo, Fin.le_def] at hr
    have hlen : (s.readBlock s.i (x.val + 1)).length = x.val + 1 := s.length_readBlock ..
    rw [effect, s.readV_loadRegBlock (by omega), dif_neg (by omega)]

theorem UnchangedBut.writeV (t : State) (r : Reg) (b : Byte) : UnchangedBut [.reg r] t (t.writeV r b) := by
  constructor <;> simp +contextual [State.readV_writeV]

theorem UnchangedBut.completeKeyWait (t : State) (x : Reg) (k : Key) :
    UnchangedBut [.reg x, .keyWait] t (t.completeKeyWait x k) := by
  constructor <;> simp +contextual [State.readV_completeKeyWait]

/-- Settles O32: the frame of the write lists, the commutation of a handler with a write it does not read, and the
completion that writes the register of `Fx0A`. -/
theorem registersReadAndWrittenAsListed : Obligations.RegistersReadAndWrittenAsListed := by
  intro i s t h
  obtain rfl := exec_eq_next_iff.1 h
  refine ⟨fun r hr => effect_readV s hr, fun r b hr => ?_, fun x k _ hk => ?_⟩
  · refine ⟨_, exec_eq_next_effect i _, ?_⟩
    rw [effect_writeV s b hr]
    by_cases hw : r ∈ registersWritten i
    · rw [if_pos hw, if_pos hw]
      exact ⟨.refl _ _, rfl⟩
    · rw [if_neg hw, if_neg hw]
      exact ⟨.writeV _ r b, State.readV_writeV_same ..⟩
  · refine ⟨(effect i s).completeKeyWait x k, by rw [State.keyWaitTurn, hk], .completeKeyWait _ x k, ?_⟩
    rw [State.readV_completeKeyWait, if_pos rfl, toNat_keyByte]

end Sys2Proof.Machine
end

section
/-! PROOFS. The display and memory (R70, R71): which handlers write them, and that every handler but the few that read them
does the same whatever they hold. -/

namespace Sys2Proof.Machine

variable {i : Instr} (s : State)

/-! ### Written -/

theorem effect_disp (hcls : i ≠ .cls) (hdrw : ∀ x y n, i ≠ .drw x y n) : (effect i s).disp = s.disp := by
  cases i with
  | cls => exact absurd rfl hcls
  | drw x y n => exact absurd rfl (hdrw x y n)
  | _ => simp [effect]

theorem effect_mem (hldB : ∀ x, i ≠ .ldB x) (hstore : ∀ x, i ≠ .storeRegs x) : (effect i s).mem = s.mem := by
  cases i with
  | ldB x => exact absurd rfl (hldB x)
  | storeRegs x => exact absurd rfl (hstore x)
  | _ => simp [effect]

/-! ### Read: the push and the pop, whose branch turns on `SP` alone, then every handler -/

theorem State.popAndGo_withMem_withDisp (m : Memory) (d : Display) :
    { s with mem := m, disp := d }.popAndGo = { s.popAndGo with mem := m, disp := d } := by
  rcases s.popAndGo_cases with ⟨h, heq⟩ | ⟨h, heq⟩ <;> rw [heq]
  · exact if_pos h
  · exact if_neg h

theorem State.pushAndGo_withMem_withDisp (w : Word) (m : Memory) (d : Display) :
    { s with mem := m, disp := d }.pushAndGo w = { s.pushAndGo w with mem := m, disp := d } := by
  rcases s.pushAndGo_cases w with ⟨h, heq⟩ | ⟨h, heq⟩ <;> rw [heq]
  · exact if_pos h
  · exact if_neg (Nat.not_lt.2 h)

/-- `00E0` overwrites the display it finds; every other handler but `Dxyn`'s leaves it, and does the same for any (R71). -/
theorem effect_withDisp (hcls : i ≠ .cls) (hdrw : ∀ x y n, i ≠ .drw x y n) (d : Display) :
    effect i { s with disp := d } = { effect i s with disp := d } := by
  cases i with
  | cls => exact absurd rfl hcls
  | drw x y n => exact absurd rfl (hdrw x y n)
  | ret => simpa [effect] using s.popAndGo_withMem_withDisp s.mem d
  | call nnn => simpa [effect] using s.pushAndGo_withMem_withDisp (zext16 nnn) s.mem d
  | _ => rfl

/-- Every handler but those of `Fx65` and `Dxyn` does the same for any memory, but to memory itself (R70). -/
theorem effect_withMem (hload : ∀ x, i ≠ .loadRegs x) (hdrw : ∀ x y n, i ≠ .drw x y n) (m : Memory) :
    effect i { s with mem := m } = { effect i s with mem := (effect i { s with mem := m }).mem } := by
  cases i with
  | loadRegs x => exact absurd rfl (hload x)
  | drw x y n => exact absurd rfl (hdrw x y n)
  | ret => simpa [effect] using s.popAndGo_withMem_withDisp m s.disp
  | call nnn => simpa [effect] using s.pushAndGo_withMem_withDisp (zext16 nnn) m s.disp
  | _ => rfl

theorem UnchangedBut.withDisp (t : State) (d : Display) : UnchangedBut [.display] t { t with disp := d } := by
  constructor <;> simp [State.readV, State.readByte]

theorem UnchangedBut.withMem (t : State) (m : Memory) : UnchangedBut [.memory] t { t with mem := m } := by
  constructor <;> simp [State.readV, State.pixel]

/-- Settles O27: `00E0` gives one state from every display; every other handler commutes with the choice of display. -/
theorem displayReachedOnlyByClearAndDraw : Obligations.DisplayReachedOnlyByClearAndDraw := by
  intro i s hdrw
  refine ⟨fun t h hcls => ?_, fun d t h => ⟨_, exec_eq_next_effect i _, ?_⟩⟩ <;> obtain rfl := exec_eq_next_iff.1 h
  · exact effect_disp s hcls hdrw
  · by_cases hcls : i = .cls
    · subst hcls
      exact ⟨.refl _ _, rfl⟩
    · rw [if_neg hcls, effect_withDisp s hcls hdrw d]
      exact ⟨.withDisp _ d, rfl⟩

/-- Settles O28: the frame of memory, and the same effect but for memory whatever memory was. -/
theorem memoryReachedOnlyByTransfersAndDraw : Obligations.MemoryReachedOnlyByTransfersAndDraw := by
  intro i s t h
  obtain rfl := exec_eq_next_iff.1 h
  exact ⟨effect_mem s, fun hload hdrw m =>
    ⟨_, exec_eq_next_iff.2 (effect_withMem s hload hdrw m).symm, .withMem _ _⟩⟩

end Sys2Proof.Machine
end

section
/-! PROOFS. The bytes that `Fx55` and `Fx33` store, read back (R174, R175), and the two bytes of a fetch (R60, R76). -/

namespace Sys2Proof.Machine

variable {s : State} (x : Reg)

/-- The high byte of the fetched word is the one at `PC` (R60). -/
theorem State.fetchWord_div (s : State) : s.fetchWord.toNat / 256 = (s.readByte (effAddr s.pc 0)).toNat := by
  rw [State.fetchWord, toNat_joinBytes]
  omega

/-- The low byte of the fetched word is the one at `PC + 1` (R60). -/
theorem State.fetchWord_mod (s : State) : s.fetchWord.toNat % 256 = (s.readByte (effAddr s.pc 1)).toNat := by
  rw [State.fetchWord, toNat_joinBytes]
  omega

/-! ### `Fx55` -/

theorem readByte_storeRegs_inside (h : s.mem.wf = true) {r : Reg} (hr : r ≤ x) :
    (effect (.storeRegs x) s).readByte (effAddr s.i r.val) = s.readV r := by
  have hlen : (s.regsTo x).length = x.val + 1 := s.length_regsTo x
  have hlt : r.val < (s.regsTo x).length := by rw [hlen]; exact Nat.lt_succ_of_le hr
  rw [effect, State.readByte_writeBlock_inside h s.i _ (by omega) hlt, State.getElem_regsTo, ofNat_val]

theorem readByte_storeRegs_outside (h : s.mem.wf = true) {a : Addr} (ha : ∀ r : Reg, r ≤ x → a ≠ effAddr s.i r.val) :
    (effect (.storeRegs x) s).readByte a = s.readByte a := by
  refine State.readByte_writeBlock_outside h s.i _ fun j hj => ?_
  rw [State.length_regsTo] at hj
  exact ha ⟨j, by omega⟩ (Nat.le_of_lt_succ hj)

/-! ### `Fx33` -/

/-- The hundreds, tens and ones fit their bytes (R174). -/
theorem toNat_getElem_digits (b : Byte) {k : Nat} (hk : k < (digits b).length) :
    (digits b)[k].toNat = if k = 0 then b.toNat / 100 else if k = 1 then b.toNat / 10 % 10 else b.toNat % 10 := by
  have hb := b.isLt
  match k, hk with
  | 0, _ | 1, _ | 2, _ => simp [digits]; omega

theorem readByte_ldB_inside (h : s.mem.wf = true) {k : Nat} (hk : k < 3) :
    ((effect (.ldB x) s).readByte (effAddr s.i k)).toNat =
      if k = 0 then (s.readV x).toNat / 100 else if k = 1 then (s.readV x).toNat / 10 % 10 else (s.readV x).toNat % 10 := by
  have hlt : k < (digits (s.readV x)).length := hk
  rw [effect, State.readByte_writeBlock_inside h s.i _ (by simp [digits]) hlt, toNat_getElem_digits]

theorem readByte_ldB_outside (h : s.mem.wf = true) {a : Addr} (ha : ∀ k < 3, a ≠ effAddr s.i k) :
    (effect (.ldB x) s).readByte a = s.readByte a :=
  State.readByte_writeBlock_outside h s.i (digits (s.readV x)) ha

/-- Settles O36: each byte of the fetched word is read at its own address, inside the stored block or outside it. -/
theorem nextFetchSeesTheStore : Obligations.NextFetchSeesTheStore := by
  intro s t x hwf
  refine ⟨fun h => ?_, fun h k hk => ?_⟩ <;> obtain rfl := exec_eq_next_iff.1 h <;>
    simp only [State.fetchWord_div, State.fetchWord_mod]
  · refine ⟨fun r hr ha => ?_, fun r hr ha => ?_, fun ha => ?_, fun ha => ?_⟩
    · rw [ha, readByte_storeRegs_inside x hwf hr]
    · rw [ha, readByte_storeRegs_inside x hwf hr]
    · exact congrArg BitVec.toNat (readByte_storeRegs_outside x hwf ha)
    · exact congrArg BitVec.toNat (readByte_storeRegs_outside x hwf ha)
  · refine ⟨fun ha => ?_, fun ha => ?_, fun ha => ?_, fun ha => ?_⟩
    · rw [ha, readByte_ldB_inside x hwf hk]
    · rw [ha, readByte_ldB_inside x hwf hk]
    · exact congrArg BitVec.toNat (readByte_ldB_outside x hwf ha)
    · exact congrArg BitVec.toNat (readByte_ldB_outside x hwf ha)

end Sys2Proof.Machine
end

section
/-! PROOFS. The round trip of decoder and encoder, from the fields of a word (R81, R85-R91). A term stands for a word when it
is well formed and encodes to it; the decoder answers the one term that does. -/

namespace Sys2Proof

/-- `i` is a well-formed term, and `w` is its word. -/
def Instr.StandsFor (i : Instr) (w : Word) : Prop := i.wellFormed = true ∧ encode i = w

/-! ### A word rebuilt from its family and its selector -/

section Rebuild

variable {w : Word} {op : Nat}

theorem packNNN_of_fieldOp (hop : fieldOp w = op) : packNNN op (fieldNnn w) = w :=
  hop ▸ packNNN_fields w

theorem packNNN_eq_iff (hop : fieldOp w = op) (nnn : Addr) : packNNN op nnn = w ↔ nnn = fieldNnn w := by
  constructor
  · rintro rfl; exact (fieldNnn_packNNN (hop ▸ fieldOp_lt _) nnn).symm
  · rintro rfl; exact packNNN_of_fieldOp hop

theorem packXKK_of_fieldOp (hop : fieldOp w = op) : packXKK op (fieldX w) (fieldKk w) = w :=
  hop ▸ packXKK_fields w

theorem packXYN_of_fieldOp (hop : fieldOp w = op) : packXYN op (fieldX w) (fieldY w) (fieldN w) = w :=
  hop ▸ packXYN_fields w

theorem packXKK_of_selector {kk : Byte} (hop : fieldOp w = op) (hkk : bits w 7 0 = kk.toNat) :
    packXKK op (fieldX w) kk = w := by
  have h : fieldKk w = kk := by rw [fieldKk, hkk, BitVec.ofNat_toNat, BitVec.setWidth_eq]
  exact h ▸ packXKK_of_fieldOp hop

theorem packXYN_of_selector {n : Fin 16} (hop : fieldOp w = op) (hn : bits w 3 0 = n.val) :
    packXYN op (fieldX w) (fieldY w) n = w := by
  have h : fieldN w = n := by rw [fieldN, hn]; exact Fin.ofNat_val_eq_self n
  exact h ▸ packXYN_of_fieldOp hop

end Rebuild

/-! ### The words of R90 -/

/-- R90's list in the fields that the decoder dispatches on. -/
theorem unrecognizedWord_iff (w : Word) : unrecognizedWord w = true ↔
    (fieldOp w = 5 ∧ bits w 3 0 ≠ 0) ∨ (fieldOp w = 9 ∧ bits w 3 0 ≠ 0) ∨
    (fieldOp w = 8 ∧ bits w 3 0 ∈ [8, 9, 0xA, 0xB, 0xC, 0xD, 0xF]) ∨
    (fieldOp w = 0xE ∧ bits w 7 0 ∉ [0x9E, 0xA1]) ∨
    (fieldOp w = 0xF ∧ bits w 7 0 ∉ [0x07, 0x0A, 0x15, 0x18, 0x1E, 0x29, 0x33, 0x55, 0x65]) := by
  have hop : fieldOp w = w.toNat / 4096 := Nat.mod_eq_of_lt (Nat.div_lt_of_lt_mul w.isLt)
  have hn : bits w 3 0 = w.toNat % 16 := by simp [bits]
  have hkk : bits w 7 0 = w.toNat % 256 := by simp [bits]
  rw [hop, hn, hkk]
  simp [unrecognizedWord, or_assoc]

theorem decode_of_unrecognizedWord {w : Word} (h : unrecognizedWord w = true) : decode w = .unrecognized w := by
  rcases (unrecognizedWord_iff w).1 h with ⟨hop, hn⟩ | ⟨hop, hn⟩ | ⟨hop, hn⟩ | ⟨hop, hkk⟩ | ⟨hop, hkk⟩
  · simp [decode, hop, decodeXY0, hn]
  · simp [decode, hop, decodeXY0, hn]
  · simp only [List.mem_cons, List.not_mem_nil, or_false] at hn
    rcases hn with hn | hn | hn | hn | hn | hn | hn <;> simp [decode, hop, decodeFamily8, hn]
  · simp only [List.mem_cons, List.not_mem_nil, or_false, not_or] at hkk
    simp [decode, hop, decodeFamilyE, hkk]
  · simp only [List.mem_cons, List.not_mem_nil, or_false, not_or] at hkk
    simp [decode, hop, decodeFamilyF, hkk]

/-! ### Decode of encode -/

theorem wellFormed_sys_iff (nnn : Addr) : (Instr.sys nnn).wellFormed = true ↔ nnn ≠ 0x0E0 ∧ nnn ≠ 0x0EE := by
  simp [Instr.wellFormed]

theorem decode_encode_sys {nnn : Addr} (h : (Instr.sys nnn).wellFormed = true) : decode (packNNN 0 nnn) = .sys nnn := by
  obtain ⟨hcls, hret⟩ := (wellFormed_sys_iff nnn).1 h
  have hclsWord : packNNN 0 nnn ≠ 0x00E0 := mt (packNNN_eq_iff (by decide) nnn).1 hcls
  have hretWord : packNNN 0 nnn ≠ 0x00EE := mt (packNNN_eq_iff (by decide) nnn).1 hret
  simp only [decode, fieldOp_packNNN (op := 0) (by decide)]
  rw [decodeFamily0, if_neg hclsWord, if_neg hretWord, fieldNnn_packNNN (by decide)]

/-- Settles O8, by the format of the instruction: the decoder reads back the family, the selector and the operands that the
encoder packed. -/
theorem decodeOfEncode : Obligations.DecodeOfEncode := by
  intro i h
  cases i with
  | cls | ret => decide
  | sys nnn => exact decode_encode_sys h
  | jp nnn | call nnn | ldI nnn | jpV0 nnn => simp [encode, decode, fieldOp_packNNN, fieldNnn_packNNN]
  | seImm x kk | sneImm x kk | ldImm x kk | addImm x kk | rnd x kk =>
    simp [encode, decode, fieldOp_packXKK, fieldX_packXKK, fieldKk_packXKK]
  | seReg x y | sneReg x y =>
    simp [encode, decode, fieldOp_packXYN, decodeXY0, bits_3_0_packXYN, fieldX_packXYN, fieldY_packXYN]
  | ldReg x y | orReg x y | andReg x y | xorReg x y | addReg x y | sub x y | shr x y | subn x y | shl x y =>
    simp [encode, decode, fieldOp_packXYN, decodeFamily8, bits_3_0_packXYN, fieldX_packXYN, fieldY_packXYN]
  | drw x y n => simp [encode, decode, fieldOp_packXYN, fieldX_packXYN, fieldY_packXYN, fieldN_packXYN]
  | skp x | sknp x => simp [encode, decode, fieldOp_packXKK, decodeFamilyE, bits_7_0_packXKK, fieldX_packXKK]
  | ldVxDt x | ldVxK x | ldDtVx x | ldStVx x | addI x | ldF x | ldB x | storeRegs x | loadRegs x =>
    simp [encode, decode, fieldOp_packXKK, decodeFamilyF, bits_7_0_packXKK, fieldX_packXKK]
  | unrecognized w => exact decode_of_unrecognizedWord h

/-- A word has one well-formed term, the decoded one. -/
theorem Instr.StandsFor.decode_eq {i : Instr} {w : Word} (h : i.StandsFor w) : decode w = i :=
  h.2 ▸ decodeOfEncode i h.1

/-! ### Encode of decode, family by family -/

section Families

variable {w : Word}

theorem unrecognized_standsFor (h : unrecognizedWord w = true) : (Instr.unrecognized w).StandsFor w := ⟨h, rfl⟩

theorem decodeFamily0_standsFor (hop : fieldOp w = 0x0) : (decodeFamily0 w).StandsFor w := by
  unfold decodeFamily0
  split_ifs with hcls hret
  · exact ⟨rfl, hcls.symm⟩
  · exact ⟨rfl, hret.symm⟩
  · have hclsField : fieldNnn w ≠ 0x0E0 := fun h => hcls ((packNNN_eq_iff hop _).2 h.symm).symm
    have hretField : fieldNnn w ≠ 0x0EE := fun h => hret ((packNNN_eq_iff hop _).2 h.symm).symm
    exact ⟨(wellFormed_sys_iff _).2 ⟨hclsField, hretField⟩, packNNN_of_fieldOp hop⟩

theorem decodeXY0_standsFor {op : Nat} {made : Reg → Reg → Instr} (hop : fieldOp w = op)
    (hmade : ∀ x y, (made x y).StandsFor (packXYN op x y 0))
    (hrest : bits w 3 0 ≠ 0 → unrecognizedWord w = true) : (decodeXY0 w made).StandsFor w := by
  unfold decodeXY0
  split_ifs with hn
  · have hw : packXYN op (fieldX w) (fieldY w) 0 = w := packXYN_of_selector hop hn
    simpa only [hw] using hmade (fieldX w) (fieldY w)
  · exact unrecognized_standsFor (hrest hn)

theorem decodeFamily8_standsFor (hop : fieldOp w = 0x8) : (decodeFamily8 w).StandsFor w := by
  have hlt : bits w 3 0 < 16 := Nat.mod_lt _ (by decide)
  unfold decodeFamily8
  split
  case h_10 =>
    refine unrecognized_standsFor ((unrecognizedWord_iff w).2 (.inr (.inr (.inl ⟨hop, ?_⟩))))
    simp only [List.mem_cons, List.not_mem_nil, or_false]
    grind
  all_goals exact ⟨rfl, packXYN_of_selector hop ‹_›⟩

theorem decodeFamilyE_standsFor (hop : fieldOp w = 0xE) : (decodeFamilyE w).StandsFor w := by
  unfold decodeFamilyE
  split_ifs with hskp hsknp
  · exact ⟨rfl, packXKK_of_selector hop hskp⟩
  · exact ⟨rfl, packXKK_of_selector hop hsknp⟩
  · exact unrecognized_standsFor ((unrecognizedWord_iff w).2 (by simp [*]))

theorem decodeFamilyF_standsFor (hop : fieldOp w = 0xF) : (decodeFamilyF w).StandsFor w := by
  unfold decodeFamilyF
  split_ifs
  case neg => exact unrecognized_standsFor ((unrecognizedWord_iff w).2 (by simp [*]))
  all_goals exact ⟨rfl, packXKK_of_selector hop ‹_›⟩

/-- By `op`, as the decoder dispatches: case `h_k` is `op = k - 1`. -/
theorem decode_standsFor (w : Word) : (decode w).StandsFor w := by
  have hlt := fieldOp_lt w
  unfold decode
  split
  case h_1 hop => exact decodeFamily0_standsFor hop
  case h_6 hop =>
    exact decodeXY0_standsFor hop (fun _ _ => ⟨rfl, rfl⟩) fun hn => (unrecognizedWord_iff w).2 (.inl ⟨hop, hn⟩)
  case h_9 hop => exact decodeFamily8_standsFor hop
  case h_10 hop =>
    exact decodeXY0_standsFor hop (fun _ _ => ⟨rfl, rfl⟩) fun hn => (unrecognizedWord_iff w).2 (.inr (.inl ⟨hop, hn⟩))
  case h_14 hop => exact ⟨rfl, packXYN_of_fieldOp hop⟩
  case h_15 hop => exact decodeFamilyE_standsFor hop
  case h_16 => exact decodeFamilyF_standsFor (by grind)
  case h_4 hop | h_5 hop | h_7 hop | h_8 hop | h_13 hop => exact ⟨rfl, packXKK_of_fieldOp hop⟩
  case h_2 hop | h_3 hop | h_11 hop | h_12 hop => exact ⟨rfl, packNNN_of_fieldOp hop⟩

end Families

/-- Settles O9: the decoded term stands for the word, whichever family it is of. -/
theorem encodeOfDecode : Obligations.EncodeOfDecode := decode_standsFor

/-- Settles O6: an unrecognized word and its term stand for each other, and only a well-formed term is decoded. -/
theorem unrecognizedWordsAreThoseListed : Obligations.UnrecognizedWordsAreThoseListed := by
  intro w
  obtain ⟨hwf, hencode⟩ := encodeOfDecode w
  refine ⟨⟨fun h => ?_, decode_of_unrecognizedWord⟩, fun u h => ?_⟩
  · rwa [h] at hwf
  · rwa [h] at hencode

end Sys2Proof
end

section
/-! PROOFS. Match and mask of the opcode table (R96): a row that matches a word fixes the fields that the decoder dispatches
on, so the decoder takes that row. -/

namespace Sys2Proof

section Masked

variable {w m : Word}

theorem fieldOp_of_and_F000 (h : w &&& 0xF000 = m) : fieldOp w = m.toNat / 4096 := by
  have := fieldOp_lt w
  rw [← h, and_F000, BitVec.toNat_ofNat]
  omega

theorem fields_of_and_F00F (h : w &&& 0xF00F = m) : fieldOp w = m.toNat / 4096 ∧ bits w 3 0 = m.toNat % 16 := by
  have := fieldOp_lt w
  have : bits w 3 0 < 16 := Nat.mod_lt _ (by decide)
  rw [← h, and_F00F, BitVec.toNat_ofNat]
  omega

theorem fields_of_and_F0FF (h : w &&& 0xF0FF = m) : fieldOp w = m.toNat / 4096 ∧ bits w 7 0 = m.toNat % 256 := by
  have := fieldOp_lt w
  have : bits w 7 0 < 256 := Nat.mod_lt _ (by decide)
  rw [← h, and_F0FF, BitVec.toNat_ofNat]
  omega

end Masked

open Laws.TableRow in
/-- Every instruction's word carries its row's fixed bits: the lemmas of the rows, as one statement. -/
theorem encode_matches_tableRow : ∀ i : Instr, Statement i
  | .cls => cls | .ret => ret | .sys _ => sys _ | .jp _ => jp _ | .call _ => call _ | .seImm _ _ => seImm _ _
  | .sneImm _ _ => sneImm _ _ | .seReg _ _ => seReg _ _ | .ldImm _ _ => ldImm _ _ | .addImm _ _ => addImm _ _
  | .ldReg _ _ => ldReg _ _ | .orReg _ _ => orReg _ _ | .andReg _ _ => andReg _ _ | .xorReg _ _ => xorReg _ _
  | .addReg _ _ => addReg _ _ | .sub _ _ => sub _ _ | .shr _ _ => shr _ _ | .subn _ _ => subn _ _
  | .shl _ _ => shl _ _ | .sneReg _ _ => sneReg _ _ | .ldI _ => ldI _ | .jpV0 _ => jpV0 _ | .rnd _ _ => rnd _ _
  | .drw _ _ _ => drw _ _ _ | .skp _ => skp _ | .sknp _ => sknp _ | .ldVxDt _ => ldVxDt _ | .ldVxK _ => ldVxK _
  | .ldDtVx _ => ldDtVx _ | .ldStVx _ => ldStVx _ | .addI _ => addI _ | .ldF _ => ldF _ | .ldB _ => ldB _
  | .storeRegs _ => storeRegs _ | .loadRegs _ => loadRegs _ | .unrecognized _ => unrecognized _

/-- A row other than SYS and the last is the row of every word that it matches. -/
theorem tableRow_decode_of_match {i : Instr} {w : Word} (hsys : ∀ nnn, i ≠ .sys nnn) (hlast : ∀ u, i ≠ .unrecognized u)
    (h : w &&& (tableRow i).2 = (tableRow i).1) : tableRow (decode w) = tableRow i := by
  cases i with
  | cls | ret =>
    rw [tableRow, and_FFFF] at h
    rw [h]
    rfl
  | sys nnn => exact absurd rfl (hsys nnn)
  | unrecognized u => exact absurd rfl (hlast u)
  | jp nnn | call nnn | ldI nnn | jpV0 nnn | seImm x kk | sneImm x kk | ldImm x kk | addImm x kk | rnd x kk | drw x y n =>
    have hop := fieldOp_of_and_F000 h
    simp [decode, hop, tableRow]
  | seReg x y | sneReg x y =>
    obtain ⟨hop, hn⟩ := fields_of_and_F00F h
    simp [decode, hop, decodeXY0, hn, tableRow]
  | ldReg x y | orReg x y | andReg x y | xorReg x y | addReg x y | sub x y | shr x y | subn x y | shl x y =>
    obtain ⟨hop, hn⟩ := fields_of_and_F00F h
    simp [decode, hop, decodeFamily8, hn, tableRow]
  | skp x | sknp x =>
    obtain ⟨hop, hkk⟩ := fields_of_and_F0FF h
    simp [decode, hop, decodeFamilyE, hkk, tableRow]
  | ldVxDt x | ldVxK x | ldDtVx x | ldStVx x | addI x | ldF x | ldB x | storeRegs x | loadRegs x =>
    obtain ⟨hop, hkk⟩ := fields_of_and_F0FF h
    simp [decode, hop, decodeFamilyF, hkk, tableRow]

theorem decode_of_and_F000_eq_zero {w : Word} (h : w &&& 0xF000 = 0x0000) :
    decode w = .cls ∨ decode w = .ret ∨ ∃ nnn, decode w = .sys nnn := by
  have hop : fieldOp w = 0 := fieldOp_of_and_F000 h
  simp only [decode, hop, decodeFamily0]
  split_ifs <;> simp

/-- Only the last row has the empty mask, which every word matches. -/
theorem tableRow_eq_last_iff (i : Instr) : tableRow i = (0x0000, 0x0000) ↔ ∃ u, i = .unrecognized u := by
  cases i <;> simp [tableRow]

/-- Settles O7, from the round trip and from the masked word's fields. -/
theorem matchAndMaskSelectTheRow : Obligations.MatchAndMaskSelectTheRow := by
  intro w
  refine ⟨?_, fun i hsys hlast h => tableRow_decode_of_match hsys hlast h, decode_of_and_F000_eq_zero,
    fun u hu i hlast h => ?_⟩
  · have h : encode (decode w) &&& _ = _ := encode_matches_tableRow (decode w)
    rwa [(encodeOfDecode w).2] at h
  · by_cases hsys : ∃ nnn, i = .sys nnn
    · obtain ⟨nnn, rfl⟩ := hsys
      simpa [hu] using decode_of_and_F000_eq_zero h
    · have hrow := tableRow_decode_of_match (fun nnn hi => hsys ⟨nnn, hi⟩) hlast h
      rw [hu] at hrow
      obtain ⟨v, hv⟩ := (tableRow_eq_last_iff i).1 hrow.symm
      exact hlast v hv

end Sys2Proof
end

section
/-! PROOFS. The words of single families (R86-R89): each is the encoding of a well-formed term or one that R90 lists, so the
round trip decodes it. -/

namespace Sys2Proof

/-- Settles O1, word by word. -/
theorem specWordsDecode : Obligations.SpecWordsDecode := by
  unfold Obligations.SpecWordsDecode
  decide

/-- Settles O2: SYS is well formed outside the two exact words. -/
theorem familyZeroDecodesByWholeWord : Obligations.FamilyZeroDecodesByWholeWord := by
  refine ⟨by decide, by decide, fun nnn hcls hret => ⟨Instr.StandsFor.decode_eq ⟨?_, ?_⟩, fun s => rfl⟩⟩
  · exact (wellFormed_sys_iff nnn).2 ⟨hcls, hret⟩
  · simp [encode, packNNN]

/-- Settles O4: each word is the encoding of the instruction named, or one that R90 lists. -/
theorem familyEightDecodesByN : Obligations.FamilyEightDecodesByN := by
  intro x y n i
  refine ⟨?_, ?_, ?_, ?_, ?_, ?_, ?_, ?_, ?_, fun h => ⟨_, decode_of_unrecognizedWord ?unselected⟩⟩
  case unselected =>
    change unrecognizedWord (packXYN 0x8 x y n) = true
    rw [unrecognizedWord_iff, fieldOp_packXYN (by decide), bits_3_0_packXYN (by decide)]
    exact .inr (.inr (.inl ⟨rfl, List.mem_map_of_mem (f := Fin.val) h⟩))
  all_goals
    rintro rfl
    exact Instr.StandsFor.decode_eq ⟨rfl, rfl⟩

/-- A selector outside a list of selectors, as numbers. -/
theorem toNat_notMem {kk : Byte} {l : List Byte} (h : kk ∉ l) : kk.toNat ∉ l.map BitVec.toNat := by
  rwa [List.mem_map_of_injective BitVec.toNat_injective]

/-- Settles O5: each word is the encoding of the instruction named, or one that R90 lists. -/
theorem familiesEAndFDecodeByKk : Obligations.FamiliesEAndFDecodeByKk := by
  intro x kk e f
  refine ⟨?_, ?_, fun h => ⟨_, decode_of_unrecognizedWord ?unselectedE⟩, ?_, ?_, ?_, ?_, ?_, ?_, ?_, ?_, ?_,
    fun h => ⟨_, decode_of_unrecognizedWord ?unselectedF⟩⟩
  case unselectedE =>
    change unrecognizedWord (packXKK 0xE x kk) = true
    rw [unrecognizedWord_iff, fieldOp_packXKK (by decide), bits_7_0_packXKK (by decide)]
    exact .inr (.inr (.inr (.inl ⟨rfl, toNat_notMem h⟩)))
  case unselectedF =>
    change unrecognizedWord (packXKK 0xF x kk) = true
    rw [unrecognizedWord_iff, fieldOp_packXKK (by decide), bits_7_0_packXKK (by decide)]
    exact .inr (.inr (.inr (.inr ⟨rfl, toNat_notMem h⟩)))
  all_goals
    rintro rfl
    exact Instr.StandsFor.decode_eq ⟨rfl, rfl⟩

end Sys2Proof
end

section
/-! PROOFS. The first level of dispatch (R105): a word of a family with one handler is the encoding of its instruction; in
the families 5 and 9 a word with `n ≠ 0` is one that R90 lists. -/

namespace Sys2Proof

theorem decode_packXYN_of_n_ne_zero {op : Nat} (hop : op = 5 ∨ op = 9) (x y : Reg) {n : Fin 16} (hn : n ≠ 0) :
    decode (packXYN op x y n) = .unrecognized (packXYN op x y n) := by
  have hlt : op < 16 := by omega
  have hval : n.val ≠ 0 := Fin.val_ne_zero_iff.2 hn
  apply decode_of_unrecognizedWord
  rw [unrecognizedWord_iff, fieldOp_packXYN hlt, bits_3_0_packXYN hlt]
  rcases hop with rfl | rfl
  · exact .inl ⟨rfl, hval⟩
  · exact .inr (.inl ⟨rfl, hval⟩)

/-- Settles O3: each word is the encoding of the instruction named, or of family 5 or 9 with `n ≠ 0`. -/
theorem firstLevelDecodesByOp : Obligations.FirstLevelDecodesByOp := by
  intro x y n kk nnn
  refine ⟨?_, ?_, ?_, ?_, ?_, ?_, ?_, ?_, ?_, ?_, ?_, ?_, fun hn =>
    ⟨⟨_, decode_packXYN_of_n_ne_zero (.inl rfl) x y hn, fun _ => rfl⟩,
      _, decode_packXYN_of_n_ne_zero (.inr rfl) x y hn, fun _ => rfl⟩⟩
  all_goals exact Instr.StandsFor.decode_eq ⟨rfl, rfl⟩

end Sys2Proof
end

section
/-! PROOFS. The outcomes of a step (R102, R103, R107, R110): when the core is halted, when it holds, and the state that the
handler of the fetched word starts from. -/

namespace Sys2Proof.Machine

variable {s : State}

/-! ### Halted or held -/

theorem State.haltedBy_of_terminate (h : s.terminate = true) : s.haltedBy = some .terminated := by
  simp [State.haltedBy, h]

theorem State.haltedBy_of_fault (hterm : s.terminate = false) (h : s.fault ≠ .none) :
    s.haltedBy = some .stackOverflow := by
  cases hf : s.fault with
  | none => exact absurd hf h
  | stackOverflow => simp [State.haltedBy, hterm, hf]

theorem State.haltedBy_ne_none : s.haltedBy ≠ none ↔ s.terminate = true ∨ s.fault ≠ .none := by
  rw [ne_eq, State.haltedBy_none, not_and_or, Bool.not_eq_false]

theorem step_halted {f : Fault} (h : s.haltedBy = some f) : step s = .fault f := by
  simp [step, h]

theorem step_stops_halted_iff : (∃ f, f ≠ .held ∧ step s = .fault f) ↔ s.haltedBy ≠ none := by
  rcases step_cases s with ⟨f, hf, hs⟩ | ⟨h0, x, k, -, -, hs⟩ | ⟨h0, x, -, -, hs⟩ | ⟨h0, -, hs⟩
  · have hne : f ≠ .held := fun h => s.haltedBy_ne_held (h ▸ hf)
    simpa [hf, hs] using hne
  · simp [h0, hs]
  · simp [h0, hs]
  · simp [h0, hs, exec_eq_next_effect]

theorem step_held_iff : step s = .fault .held ↔ s.haltedBy = none ∧ s.keyWait ≠ none ∧ s.nextInput.keyIn = none := by
  rcases step_cases s with ⟨f, hf, hs⟩ | ⟨-, x, k, -, hk, hs⟩ | ⟨h0, x, hx, hk, hs⟩ | ⟨-, hx, hs⟩
  · have hne : f ≠ .held := fun h => s.haltedBy_ne_held (h ▸ hf)
    simpa [hf, hs] using hne
  · simp [hk, hs]
  · simp [h0, hx, hk, hs]
  · simp [hx, hs, exec_eq_next_effect]

theorem step_ne_refused (s : State) (r : Refusal) : step s ≠ .refused r := by
  rcases step_cases s with ⟨f, -, hs⟩ | ⟨-, x, k, -, -, hs⟩ | ⟨-, x, -, -, hs⟩ | ⟨-, -, hs⟩
  · simp [hs]
  · simp [hs]
  · simp [hs]
  · simp [hs, exec_eq_next_effect]

/-! ### Running -/

theorem step_running (h0 : s.haltedBy = none) (hwait : s.keyWait = none) :
    step s = exec (decode s.fetchWord) s.hostTurn.advancePc := by
  simp [step, h0, hwait]

theorem UnchangedBut.hostTurn_advancePc (s : State) :
    UnchangedBut [.pc, .delayTimer, .soundTimer, .host] s s.hostTurn.advancePc := by
  constructor <;> simp

/-- Settles O13, outcome by outcome. -/
theorem stepStopsExactlyWhenHaltedOrHeld : Obligations.StepStopsExactlyWhenHaltedOrHeld := by
  intro s
  refine ⟨step_stops_halted_iff.trans State.haltedBy_ne_none, ?_, fun hterm hfault hwait => ?_,
    fun hterm hfault hwait hkey => ?_, step_ne_refused s⟩
  · rw [step_held_iff, State.haltedBy_none, and_assoc]
  · exact ⟨_, (step_running (s.haltedBy_none.2 ⟨hterm, hfault⟩) hwait).trans (exec_eq_next_effect _ _)⟩
  · obtain ⟨x, hx⟩ := Option.ne_none_iff_exists'.1 hwait
    obtain ⟨k, hk⟩ := Option.ne_none_iff_exists'.1 hkey
    exact ⟨_, step_waiting_key (s.haltedBy_none.2 ⟨hterm, hfault⟩) hx hk⟩

/-- Settles O11: `terminate` is looked at first, and a tick counts in any state. -/
theorem haltedCoreTakesNoStep : Obligations.HaltedCoreTakesNoStep := fun s =>
  ⟨fun h => step_halted (State.haltedBy_of_terminate h),
    fun hterm h => step_halted (State.haltedBy_of_fault hterm h), toNat_timerTick s.dt, toNat_timerTick s.st⟩

/-- Settles O10: the handler starts from the state after the host's turn and the fetch advance. -/
theorem stepRunsTheDecodedInstruction : Obligations.StepRunsTheDecodedInstruction := fun s hterm hfault hwait =>
  ⟨s.hostTurn.advancePc, step_running (s.haltedBy_none.2 ⟨hterm, hfault⟩) hwait, toNat_advance s.pc, rfl,
    toNat_timerTicks _ s.dt, toNat_timerTicks _ s.st, .hostTurn_advancePc s⟩

/-! ### A placed word -/

theorem State.withFetchWord_sixteen (s : State) (w : Nat) : s.withFetchWord 16 w = s.placeWord (BitVec.ofNat 16 w) := rfl

theorem State.readByte_placeWord (h : s.mem.wf = true) (w : Word) (a : Addr) :
    (s.placeWord w).readByte a =
      if a = effAddr s.pc 1 then (splitWord w).2
      else if a = effAddr s.pc 0 then (splitWord w).1 else s.readByte a := by
  have hfirst : (s.writeByte (effAddr s.pc 0) (splitWord w).1).mem.wf = true :=
    Memory.put_wf _ (effAddr s.pc 0).isLt h
  rw [← State.readByte_writeByte h, ← State.readByte_writeByte hfirst]
  rfl

/-- The word placed at `PC` is the one fetched: its two bytes lie at different addresses (R60, R63). -/
theorem State.fetchWord_placeWord (h : s.mem.wf = true) (w : Word) : (s.placeWord w).fetchWord = w := by
  have hne : effAddr s.pc 0 ≠ effAddr s.pc 1 := fun e => absurd (effAddr_inj (by decide) (by decide) e) (by decide)
  rw [State.fetchWord, State.placeWord_pc, State.readByte_placeWord h, State.readByte_placeWord h, if_neg hne, if_pos rfl,
    if_pos rfl, joinBytes_splitWord]

theorem step_placeWord (h : s.mem.wf = true) (w : Word) :
    step (s.placeWord w) = exec (decode w) (s.placeWord w).hostTurn.advancePc := by
  rw [step_running rfl rfl, State.fetchWord_placeWord h]

theorem UnchangedBut.placeWord (s : State) (w : Word) :
    UnchangedBut [.memory, .terminate, .fault, .keyWait] s (s.placeWord w) := by
  constructor <;> simp

/-- Settles O14: the placed word is fetched by a running core, and the frames of the placing and of the host's turn with the
fetch advance compose. -/
theorem placedWordIsRun : Obligations.PlacedWordIsRun := by
  intro s w hwf _
  rw [State.withFetchWord_sixteen]
  refine ⟨_, step_placeWord hwf _, toNat_advance s.pc, rfl, rfl, rfl, rfl, toNat_timerTicks _ s.dt,
    toNat_timerTicks _ s.st, ?_, fun a h0 h1 => ?_⟩
  · exact ((UnchangedBut.placeWord s _).mono (by simp)).trans ((UnchangedBut.hostTurn_advancePc _).mono (by simp))
  · exact (State.readByte_placeWord hwf _ a).trans (by rw [if_neg h1, if_neg h0])

end Sys2Proof.Machine
end

section
/-! PROOFS. The ports (R101, R112): the handlers of `Cxkk`, `Ex9E` and `ExA1` read one port each; every other handler does the
same whatever the host presents. -/

namespace Sys2Proof.Machine

variable (s : State) (p : HostInput)

theorem State.popAndGo_withPorts : { s with ports := p }.popAndGo = { s.popAndGo with ports := p } := by
  rcases s.popAndGo_cases with ⟨h, heq⟩ | ⟨h, heq⟩ <;> rw [heq]
  · exact if_pos h
  · exact if_neg h

theorem State.pushAndGo_withPorts (w : Word) :
    { s with ports := p }.pushAndGo w = { s.pushAndGo w with ports := p } := by
  rcases s.pushAndGo_cases w with ⟨h, heq⟩ | ⟨h, heq⟩ <;> rw [heq]
  · exact if_pos h
  · exact if_neg (Nat.not_lt.2 h)

variable {p}

theorem State.keyDown_withPorts (h : p.keyDown = s.ports.keyDown) (b : Byte) :
    { s with ports := p }.keyDown b = s.keyDown b := by
  simp only [State.keyDown, h]

/-- Other port values are left at the ports, and the rest of a handler's effect is the same, where the port that the handler
reads keeps its value. -/
theorem effect_withPorts {i : Instr} (hrnd : ∀ x kk, i = .rnd x kk → p.rnd = s.ports.rnd)
    (hkey : ∀ x, i = .skp x ∨ i = .sknp x → p.keyDown = s.ports.keyDown) :
    effect i { s with ports := p } = { effect i s with ports := p } := by
  cases i with
  | ret => exact s.popAndGo_withPorts p
  | call nnn => exact s.pushAndGo_withPorts p (zext16 nnn)
  | rnd x kk =>
    simp only [effect, hrnd x kk rfl]
    rfl
  | skp x =>
    simp only [effect, s.keyDown_withPorts (hkey x (.inl rfl))]
    rfl
  | sknp x =>
    simp only [effect, s.keyDown_withPorts (hkey x (.inr rfl))]
    rfl
  | _ => rfl

theorem UnchangedBut.withPorts (t : State) (p : HostInput) : UnchangedBut [.host] t { t with ports := p } := by
  constructor <;> simp [State.readV, State.readByte, State.pixel]

/-- Settles O34: a handler commutes with a change of the ports that it does not read. -/
theorem portsReachOnlyTheirInstructions : Obligations.PortsReachOnlyTheirInstructions := by
  intro i s t p h hrnd hkey
  obtain rfl := exec_eq_next_iff.1 h
  exact ⟨_, exec_eq_next_iff.2 (effect_withPorts s hrnd hkey).symm, .withPorts _ p⟩

end Sys2Proof.Machine
end

section
/-! PROOFS. The stack operations and the frames of the control flow (R40, R120-R130). -/

namespace Sys2Proof.Machine

variable {s : State} (w : Word)

/-! ### Push and pop, by what `SP` allows -/

theorem State.pushAndGo_of_lt (h : s.sp < s.stack.length) :
    s.pushAndGo w = { s with stack := s.stack.set s.sp s.pc, sp := s.sp + 1, pc := w } := if_pos h

theorem State.pushAndGo_of_le (h : s.stack.length ≤ s.sp) : s.pushAndGo w = s.raiseStackOverflow :=
  if_neg (Nat.not_lt.2 h)

/-- The entry at the old `SP` takes `PC`, and every other entry stays (R124). -/
theorem State.getElem?_stack_pushAndGo (h : s.sp < s.stack.length) (j : Nat) :
    (s.pushAndGo w).stack[j]? = if j = s.sp then some s.pc else s.stack[j]? := by
  rw [State.pushAndGo_of_lt w h, List.getElem?_set, if_pos h]
  simp only [eq_comm]

theorem State.popAndGo_of_zero (h : s.sp = 0) : s.popAndGo = s.haltTerminate := if_pos h

theorem State.popAndGo_of_getElem? {e : Word} (h : s.sp ≠ 0) (he : s.stack[s.sp - 1]? = some e) :
    s.popAndGo = { s with sp := s.sp - 1, pc := e } := by
  have hget : s.stack.getD (s.sp - 1) 0 = e := by rw [List.getD_eq_getElem?_getD, he, Option.getD_some]
  rw [← hget]
  exact if_neg h

/-! ### A skip's target -/

/-- A skip passes one word exactly when its condition, as a proposition, holds (R120). -/
theorem State.toNat_pc_skipIf {cond : Bool} {P : Prop} [Decidable P] (h : cond = true ↔ P) :
    (s.skipIf cond).pc.toNat = if P then (s.pc.toNat + 2) % 4096 else s.pc.toNat := by
  rw [State.skipIf_pc, apply_ite BitVec.toNat, toNat_advance, if_congr h rfl rfl]

/-! ### The frames -/

theorem UnchangedBut.setPc : UnchangedBut [.pc] s (s.setPc w) := by
  constructor <;> simp

theorem UnchangedBut.pushAndGo (h : s.sp < s.stack.length) : UnchangedBut [.pc, .sp, .stack] s (s.pushAndGo w) := by
  constructor <;> simp [State.pushAndGo_of_lt w h, State.readV, State.readByte, State.pixel]

theorem UnchangedBut.raiseStackOverflow : UnchangedBut [.fault] s s.raiseStackOverflow := by
  constructor <;> simp

theorem UnchangedBut.withSp_withPc (t : State) (n : Nat) (w : Word) :
    UnchangedBut [.sp, .pc] t { t with sp := n, pc := w } := by
  constructor <;> simp [State.readV, State.readByte, State.pixel]

theorem UnchangedBut.popAndGo (h : s.sp ≠ 0) : UnchangedBut [.sp, .pc] s s.popAndGo := by
  rcases s.popAndGo_cases with ⟨hzero, -⟩ | ⟨-, heq⟩
  · exact absurd hzero h
  · rw [heq]
    exact .withSp_withPc s _ _

theorem UnchangedBut.haltTerminate : UnchangedBut [.terminate] s s.haltTerminate := by
  constructor <;> simp

/-- Where `SP` came back to its value it need not be named as changed. -/
theorem UnchangedBut.erase_sp {t : State} (h : UnchangedBut [.pc, .sp, .stack] s t) (hsp : t.sp = s.sp) :
    UnchangedBut [.pc, .stack] s t where
  regs r _ := h.regs r (by simp)
  index _ := h.index (by simp)
  pc hp := absurd (by simp) hp
  memory _ := h.memory (by simp)
  stack hp := absurd (by simp) hp
  sp _ := hsp
  display _ := h.display (by simp)
  delayTimer _ := h.delayTimer (by simp)
  soundTimer _ := h.soundTimer (by simp)
  terminate _ := h.terminate (by simp)
  fault _ := h.fault (by simp)
  keyWait _ := h.keyWait (by simp)
  host _ := h.host (by simp)

end Sys2Proof.Machine
end

section
/-! PROOFS. Calls nested to any depth and their returns (R130): what runs between a call and its return keeps `SP` and the
entries below it, so the return finds the address that its call pushed. -/

namespace Sys2Proof.Machine

/-- The state after one handler and the fetch advance before it. -/
def afterHandler (s : State) (i : Instr) : State := effect i s.advancePc

/-- Handlers are total, so those of a list run one after another. -/
theorem runHandlers_eq_foldl (is : List Instr) (s : State) : runHandlers is s = .next (is.foldl afterHandler s) := by
  induction is generalizing s with
  | nil => rfl
  | cons i is ih =>
    rw [runHandlers, exec_eq_next_effect]
    exact ih _

/-- The calls to the targets, each inside the one before it, and then as many returns. -/
def nestedCalls (targets : List Addr) : List Instr := targets.map .call ++ List.replicate targets.length .ret

theorem nestedCalls_cons (a : Addr) (targets : List Addr) :
    nestedCalls (a :: targets) = .call a :: (nestedCalls targets ++ [.ret]) := by
  simp [nestedCalls, List.replicate_succ']

/-- What a run of as many returns as calls, none of them from below the depth of `s`, keeps: `SP`, the entries below it,
and all else but `PC` and the entries from `SP` on (R130). -/
structure Balanced (s t : State) : Prop where
  sp : t.sp = s.sp
  below : ∀ j < s.sp, t.stack[j]? = s.stack[j]?
  frame : UnchangedBut [.pc, .sp, .stack] s t

section Call

variable {s u : State} (a : Addr)

theorem afterHandler_call (hfit : s.sp < s.stack.length) :
    afterHandler s (.call a) =
      { s with stack := s.stack.set s.sp (advance s.pc), sp := s.sp + 1, pc := zext16 a } :=
  State.pushAndGo_of_lt (s := s.advancePc) (zext16 a) hfit

theorem sp_afterHandler_call (hfit : s.sp < s.stack.length) : (afterHandler s (.call a)).sp = s.sp + 1 := by
  rw [afterHandler_call a hfit]

theorem getElem?_stack_afterHandler_call (hfit : s.sp < s.stack.length) (j : Nat) :
    (afterHandler s (.call a)).stack[j]? = if j = s.sp then some (advance s.pc) else s.stack[j]? :=
  State.getElem?_stack_pushAndGo (s := s.advancePc) (zext16 a) hfit j

theorem UnchangedBut.afterHandler_call (hfit : s.sp < s.stack.length) :
    UnchangedBut [.pc, .sp, .stack] s (afterHandler s (.call a)) :=
  ((UnchangedBut.setPc (advance s.pc)).mono (by simp)).trans
    (UnchangedBut.pushAndGo (s := s.advancePc) (zext16 a) hfit)

/-- The return that matches a call goes to the word after it, at the depth before it. -/
theorem Balanced.afterHandler_ret (hfit : s.sp < s.stack.length) (h : Balanced (afterHandler s (.call a)) u) :
    afterHandler u .ret = { u with sp := s.sp, pc := advance s.pc } := by
  have hsp : u.sp = s.sp + 1 := h.sp.trans (sp_afterHandler_call a hfit)
  have hentry : u.stack[s.sp]? = some (advance s.pc) := by
    rw [h.below s.sp (by rw [sp_afterHandler_call a hfit]; omega), getElem?_stack_afterHandler_call a hfit, if_pos rfl]
  rw [afterHandler, effect, State.popAndGo_of_getElem? (e := advance s.pc) (by simp [hsp]) (by simp [hsp, hentry])]
  simp [State.advancePc, State.setPc, hsp]

theorem Balanced.call_ret (hfit : s.sp < s.stack.length) (h : Balanced (afterHandler s (.call a)) u) :
    Balanced s (afterHandler u .ret) := by
  rw [h.afterHandler_ret a hfit]
  refine ⟨rfl, fun j hj => ?_, ?_⟩
  · rw [h.below j (by rw [sp_afterHandler_call a hfit]; omega), getElem?_stack_afterHandler_call a hfit, if_neg hj.ne]
  · exact ((UnchangedBut.afterHandler_call a hfit).trans h.frame).trans
      ((UnchangedBut.withSp_withPc u _ _).mono (by simp))

end Call

theorem foldl_nestedCalls_cons (a : Addr) (targets : List Addr) (s : State) :
    (nestedCalls (a :: targets)).foldl afterHandler s =
      afterHandler ((nestedCalls targets).foldl afterHandler (afterHandler s (.call a))) .ret := by
  rw [nestedCalls_cons, List.foldl_cons, List.foldl_append, List.foldl_cons, List.foldl_nil]

/-- After a call that fits, one target fewer fits above it. -/
theorem fits_afterHandler_call {a : Addr} {targets : List Addr} {s : State}
    (hfit : s.sp + (a :: targets).length ≤ s.stack.length) :
    s.sp < s.stack.length ∧
      (afterHandler s (.call a)).sp + targets.length ≤ (afterHandler s (.call a)).stack.length := by
  rw [List.length_cons] at hfit
  have hlt : s.sp < s.stack.length := by omega
  have hlen : (afterHandler s (.call a)).stack.length = s.stack.length := (effect_stack_getElem? _ s.advancePc).1
  refine ⟨hlt, ?_⟩
  rw [sp_afterHandler_call a hlt, hlen]
  omega

theorem nestedCalls_balanced (targets : List Addr) (s : State) (hfit : s.sp + targets.length ≤ s.stack.length) :
    Balanced s ((nestedCalls targets).foldl afterHandler s) := by
  induction targets generalizing s with
  | nil => exact ⟨rfl, fun _ _ => rfl, .refl _ s⟩
  | cons a targets ih =>
    obtain ⟨hlt, hinner⟩ := fits_afterHandler_call hfit
    rw [foldl_nestedCalls_cons]
    exact (ih _ hinner).call_ret a hlt

/-- Settles O35: the calls and returns inside the first call are balanced, so the last return pops what that call pushed. -/
theorem nestedCallsReturn : Obligations.NestedCallsReturn := by
  intro targets s hne hfit
  obtain ⟨hsp, hbelow, hframe⟩ := nestedCalls_balanced targets s hfit
  refine ⟨_, runHandlers_eq_foldl (nestedCalls targets) s, ?_, hsp, hbelow, hframe.erase_sp hsp⟩
  cases targets with
  | nil => exact absurd rfl hne
  | cons a targets =>
    obtain ⟨hlt, hinner⟩ := fits_afterHandler_call hfit
    rw [foldl_nestedCalls_cons, (nestedCalls_balanced targets _ hinner).afterHandler_ret a hlt, toNat_advance]

end Sys2Proof.Machine
end

section
/-! PROOFS. The instructions of control flow, each by its decoding, its effect and its frame (R121-R129). -/

namespace Sys2Proof.Machine

/-- A SYS row's word other than the two exact ones is SYS: CLS and RET encode to one word each (R86). -/
theorem decode_eq_sys_of_and_F000 {w : Word} (h : w &&& 0xF000 = 0x0000) (hcls : w ≠ 0x00E0) (hret : w ≠ 0x00EE) :
    ∃ nnn, decode w = .sys nnn := by
  have hencode := (encodeOfDecode w).2
  rcases decode_of_and_F000_eq_zero h with hd | hd | hd
  · rw [hd] at hencode
    exact absurd hencode.symm hcls
  · rw [hd] at hencode
    exact absurd hencode.symm hret
  · exact hd

/-- Settles O37: both handlers answer their own state, and the words of the SYS row that are not SYS are the two exact ones. -/
theorem noOpsChangeNothing : Obligations.NoOpsChangeNothing :=
  ⟨fun nnn s => exec_eq_next_effect (.sys nnn) s, fun w s => exec_eq_next_effect (.unrecognized w) s,
    fun _ => decode_eq_sys_of_and_F000⟩

/-- Settles O38, by whether the stack is empty. -/
theorem returnPopsOrTerminates : Obligations.ReturnPopsOrTerminates := by
  refine ⟨by decide, fun s => ⟨fun hzero => ?_, fun hpos hle => ?_⟩⟩
  · exact ⟨s.haltTerminate, exec_eq_next_iff.2 (State.popAndGo_of_zero hzero).symm, rfl, .haltTerminate⟩
  · have hentry : s.stack[s.sp - 1]? = some s.stack[s.sp - 1] := List.getElem?_eq_getElem (by omega)
    have hpop := State.popAndGo_of_getElem? hpos hentry
    exact ⟨s.popAndGo, exec_eq_next_effect .ret s, by rw [hpop], by rw [hpop, hentry], .popAndGo hpos⟩

/-- Settles O39, from the two targets. -/
theorem jumpsSetTheProgramCounter : Obligations.JumpsSetTheProgramCounter := fun nnn s =>
  ⟨Instr.StandsFor.decode_eq ⟨rfl, rfl⟩, Instr.StandsFor.decode_eq ⟨rfl, rfl⟩,
    ⟨_, exec_eq_next_effect (.jp nnn) s, toNat_zext16 nnn, .setPc _⟩,
    ⟨_, exec_eq_next_effect (.jpV0 nnn) s, toNat_jumpV0Target (s.readV 0) nnn, .setPc _⟩⟩

/-- Settles O40, by whether the stack has room. -/
theorem callPushesOrOverflows : Obligations.CallPushesOrOverflows := by
  refine fun nnn s => ⟨Instr.StandsFor.decode_eq ⟨rfl, rfl⟩, fun hlt => ?_, fun hfull => ?_⟩
  · have hpush := State.pushAndGo_of_lt (zext16 nnn) hlt
    exact ⟨s.pushAndGo (zext16 nnn), exec_eq_next_effect (.call nnn) s, by rw [hpush, toNat_zext16], by rw [hpush],
      State.getElem?_stack_pushAndGo _ hlt, .pushAndGo _ hlt⟩
  · exact ⟨s.raiseStackOverflow, exec_eq_next_iff.2 (State.pushAndGo_of_le _ hfull.ge).symm, rfl, .raiseStackOverflow⟩

/-- Settles O41: each compare is a skip on its condition. -/
theorem comparesSkipOneWord : Obligations.ComparesSkipOneWord := by
  intro x y kk s
  refine ⟨Instr.StandsFor.decode_eq ⟨rfl, rfl⟩, Instr.StandsFor.decode_eq ⟨rfl, rfl⟩,
    Instr.StandsFor.decode_eq ⟨rfl, rfl⟩, Instr.StandsFor.decode_eq ⟨rfl, rfl⟩, ?_, ?_, ?_, ?_⟩
  · exact ⟨_, exec_eq_next_effect (.seImm x kk) s, .setPc _, State.toNat_pc_skipIf beq_iff_eq⟩
  · exact ⟨_, exec_eq_next_effect (.sneImm x kk) s, .setPc _, State.toNat_pc_skipIf bne_iff_ne⟩
  · exact ⟨_, exec_eq_next_effect (.seReg x y) s, .setPc _, State.toNat_pc_skipIf beq_iff_eq⟩
  · exact ⟨_, exec_eq_next_effect (.sneReg x y) s, .setPc _, State.toNat_pc_skipIf bne_iff_ne⟩

end Sys2Proof.Machine
end

section
/-! PROOFS. What the instructions of the ALU share: the words of family 8, and the two writes, of a result and of a result
with its flag (R87, R140). -/

namespace Sys2Proof.Machine

/-- A word of family 8, with its selector at the opcode (R87). -/
theorem decode_family8_word {i : Instr} {x y n : Fin 16} (h : i.StandsFor (packXYN 0x8 x y n)) :
    decode (BitVec.ofNat 16 (0x8000 + n.val + 0x100 * x.val + 0x10 * y.val)) = i := by
  have hword : packXYN 0x8 x y n = BitVec.ofNat 16 (0x8000 + n.val + 0x100 * x.val + 0x10 * y.val) :=
    congrArg (BitVec.ofNat 16) (by omega)
  exact (hword ▸ h).decode_eq

theorem UnchangedBut.writeResultFlag (s : State) (x : Reg) (b : Byte) (f : Bool) :
    UnchangedBut [.reg x, .reg regF] s (s.writeResultFlag x b f) :=
  ((UnchangedBut.writeV s x b).mono (by simp)).trans ((UnchangedBut.writeV _ regF _).mono (by simp))

variable {i : Instr} {s : State} {x : Reg} {b : Byte} {f : Bool}

/-- A handler that writes a result to Vx and no flag. -/
theorem exec_of_effect_eq_writeV (h : effect i s = s.writeV x b) :
    ∃ t, exec i s = .next t ∧ t.readV x = b ∧ UnchangedBut [.reg x] s t :=
  ⟨_, exec_eq_next_iff.2 h.symm, State.readV_writeV_same s x b, .writeV s x b⟩

/-- A handler that writes a result to Vx and then a flag to VF: with x = F the flag stays (R140). -/
theorem exec_of_effect_eq_writeResultFlag (h : effect i s = s.writeResultFlag x b f) :
    ∃ t, exec i s = .next t ∧ (x ≠ regF → t.readV x = b) ∧ t.readV regF = flagByte f ∧
      UnchangedBut [.reg x, .reg regF] s t := by
  refine ⟨_, exec_eq_next_iff.2 h.symm, fun hx => ?_, ?_, .writeResultFlag s x b f⟩
  · rw [State.readV_writeResultFlag, if_neg hx, if_pos rfl]
  · rw [State.readV_writeResultFlag, if_pos rfl]

/-! ### The flags as numbers (R49) -/

theorem flagByte_carryOut (a b : Byte) : flagByte (carryOut a b) = if a.toNat + b.toNat > 255 then 1 else 0 :=
  if_congr decide_eq_true_iff rfl rfl

theorem flagByte_notBorrow (a b : Byte) : flagByte (notBorrow a b) = if a.toNat > b.toNat then 1 else 0 :=
  if_congr decide_eq_true_iff rfl rfl

theorem toNat_flagByte (f : Bool) : (flagByte f).toNat = f.toNat := by
  cases f <;> rfl

theorem toNat_flagByte_lowBitOut (a : Byte) : (flagByte (lowBitOut a)).toNat = a.toNat % 2 := by
  rw [toNat_flagByte, lowBitOut]
  rcases Nat.mod_two_eq_zero_or_one a.toNat with h | h <;> rw [h] <;> rfl

/-- Bit 7 of a byte, as the quotient by 128, is 0 or 1. -/
theorem toNat_flagByte_highBitOut (a : Byte) : (flagByte (highBitOut a)).toNat = a.toNat / 128 := by
  rw [toNat_flagByte, highBitOut]
  have hbit : a.toNat / 128 = 0 ∨ a.toNat / 128 = 1 := by omega
  rcases hbit with h | h <;> rw [h] <;> rfl

/-! ### The difference mod 256 (R140, R154) -/

theorem toNat_sub_byte (a b : Byte) : (a - b).toNat = (a.toNat + 256 - b.toNat) % 256 := by
  rw [BitVec.toNat_sub]
  omega

end Sys2Proof.Machine
end

section
/-! PROOFS. The instructions of the ALU, each by its decoding, the value it writes and its frame (R141-R153). -/

namespace Sys2Proof.Machine

/-- Settles O42: each load is one write of Vx. -/
theorem registerLoads : Obligations.RegisterLoads := fun _ _ _ _ =>
  ⟨Instr.StandsFor.decode_eq ⟨rfl, rfl⟩, Instr.StandsFor.decode_eq ⟨rfl, rfl⟩, exec_of_effect_eq_writeV rfl,
    exec_of_effect_eq_writeV rfl⟩

/-- Settles O43: the sum of bytes is mod 256, and Vx is all that is written. -/
theorem addImmediateWraps : Obligations.AddImmediateWraps := by
  intro x kk s
  obtain ⟨t, ht, hx, hframe⟩ := exec_of_effect_eq_writeV (i := .addImm x kk) (s := s) rfl
  exact ⟨Instr.StandsFor.decode_eq ⟨rfl, rfl⟩, t, ht, by rw [hx, BitVec.toNat_add], hframe⟩

/-- Settles O44: each operation is one write of Vx, of the bytes' operation, read bit by bit. -/
theorem logicalOperationsBitByBit : Obligations.LogicalOperationsBitByBit := by
  intro x y s
  refine ⟨decode_family8_word (n := 1) ⟨rfl, rfl⟩, decode_family8_word (n := 2) ⟨rfl, rfl⟩,
    decode_family8_word (n := 3) ⟨rfl, rfl⟩, ?_, ?_, ?_⟩
  · obtain ⟨t, ht, hx, hframe⟩ := exec_of_effect_eq_writeV (i := .orReg x y) (s := s) rfl
    exact ⟨t, ht, hframe, fun j => by rw [hx, BitVec.getLsbD_or]⟩
  · obtain ⟨t, ht, hx, hframe⟩ := exec_of_effect_eq_writeV (i := .andReg x y) (s := s) rfl
    exact ⟨t, ht, hframe, fun j => by rw [hx, BitVec.getLsbD_and]⟩
  · obtain ⟨t, ht, hx, hframe⟩ := exec_of_effect_eq_writeV (i := .xorReg x y) (s := s) rfl
    exact ⟨t, ht, hframe, fun j => by rw [hx, BitVec.getLsbD_xor]⟩

/-- Settles O45: the sum first, then the carry. -/
theorem addWithCarry : Obligations.AddWithCarry := by
  intro x y s a b
  obtain ⟨t, ht, hx, hflag, hframe⟩ := exec_of_effect_eq_writeResultFlag (i := .addReg x y) (s := s) rfl
  exact ⟨decode_family8_word (n := 4) ⟨rfl, rfl⟩, t, ht, fun hne => by rw [hx hne, BitVec.toNat_add],
    hflag.trans (flagByte_carryOut _ _), hframe⟩

/-- Settles O46: the two differ in which operand is the minuend. -/
theorem subtractionsWithStrictFlag : Obligations.SubtractionsWithStrictFlag := by
  intro x y s a b
  refine ⟨decode_family8_word (n := 5) ⟨rfl, rfl⟩, decode_family8_word (n := 7) ⟨rfl, rfl⟩, ?_, ?_⟩
  · obtain ⟨t, ht, hx, hflag, hframe⟩ := exec_of_effect_eq_writeResultFlag (i := .sub x y) (s := s) rfl
    exact ⟨t, ht, fun hne => by rw [hx hne, toNat_sub_byte], hflag.trans (flagByte_notBorrow _ _), hframe⟩
  · obtain ⟨t, ht, hx, hflag, hframe⟩ := exec_of_effect_eq_writeResultFlag (i := .subn x y) (s := s) rfl
    exact ⟨t, ht, fun hne => by rw [hx hne, toNat_sub_byte], hflag.trans (flagByte_notBorrow _ _), hframe⟩

/-- Settles O47: Vx's half or double, then the bit that leaves it; Vy is in neither. -/
theorem shiftsByOneBit : Obligations.ShiftsByOneBit := by
  intro x y s a
  refine ⟨decode_family8_word (n := 6) ⟨rfl, rfl⟩, decode_family8_word (n := 0xE) ⟨rfl, rfl⟩, ?_, ?_⟩
  · obtain ⟨t, ht, hx, hflag, hframe⟩ := exec_of_effect_eq_writeResultFlag (i := .shr x y) (s := s) rfl
    exact ⟨t, ht, fun hne => by rw [hx hne, BitVec.toNat_ushiftRight, Nat.shiftRight_one],
      by rw [hflag, toNat_flagByte_lowBitOut], hframe⟩
  · obtain ⟨t, ht, hx, hflag, hframe⟩ := exec_of_effect_eq_writeResultFlag (i := .shl x y) (s := s) rfl
    exact ⟨t, ht, fun hne => by rw [hx hne, BitVec.toNat_shiftLeft, Nat.shiftLeft_eq, Nat.pow_one, Nat.mul_comm],
      by rw [hflag, toNat_flagByte_highBitOut], hframe⟩

/-- Settles O48: Vx takes the port's byte and `kk`, bit by bit. -/
theorem randomByteIsMasked : Obligations.RandomByteIsMasked := by
  intro x kk s
  obtain ⟨t, ht, hx, hframe⟩ := exec_of_effect_eq_writeV (i := .rnd x kk) (s := s) rfl
  exact ⟨Instr.StandsFor.decode_eq ⟨rfl, rfl⟩, t, ht, hframe, fun j => by rw [hx, BitVec.getLsbD_and]⟩

end Sys2Proof.Machine
end

section
/-! PROOFS. What the instructions of the index register and of memory share: the words of family F, the write of `I`, the
write of a block and the load of the registers (R89, R171-R176). -/

namespace Sys2Proof.Machine

/-- A word of family F, with its selector at the opcode (R89). -/
theorem decode_familyF_word {i : Instr} {x : Reg} {kk : Byte} (h : i.StandsFor (packXKK 0xF x kk)) :
    decode (BitVec.ofNat 16 (0xF000 + kk.toNat + 0x100 * x.val)) = i := by
  have hword : packXKK 0xF x kk = BitVec.ofNat 16 (0xF000 + kk.toNat + 0x100 * x.val) :=
    congrArg (BitVec.ofNat 16) (by omega)
  exact (hword ▸ h).decode_eq

variable {i : Instr} {s : State}

/-! ### The index register -/

theorem UnchangedBut.setI (s : State) (w : Word) : UnchangedBut [.index] s (s.setI w) := by
  constructor <;> simp

/-- A handler that writes `I` and nothing else. -/
theorem exec_of_effect_eq_setI {w : Word} {n : Nat} (h : effect i s = s.setI w) (hw : w.toNat = n) :
    ∃ t, exec i s = .next t ∧ t.i.toNat = n ∧ UnchangedBut [.index] s t :=
  ⟨_, exec_eq_next_iff.2 h.symm, hw, .setI s w⟩

/-! ### Memory -/

theorem State.writeBlock_wf (h : s.mem.wf = true) (base : Word) (bs : List Byte) :
    (s.writeBlock base bs).mem.wf = true := Memory.putBlock_wf h base 0 bs

theorem UnchangedBut.writeBlock (s : State) (base : Word) (bs : List Byte) :
    UnchangedBut [.memory] s (s.writeBlock base bs) := .withMem s _

/-! ### The registers of `Fx65` -/

variable (s) (x : Reg)

theorem readV_loadRegs_inside {r : Reg} (hr : r ≤ x) :
    (effect (.loadRegs x) s).readV r = s.readByte (effAddr s.i r.val) := by
  have hlen : (s.readBlock s.i (x.val + 1)).length = x.val + 1 := s.length_readBlock ..
  have hlt : r.val < (s.readBlock s.i (x.val + 1)).length := by rw [hlen]; exact Nat.lt_succ_of_le hr
  rw [effect, s.readV_loadRegBlock (by omega), dif_pos hlt, State.getElem_readBlock]

/-- The registers above x are outside the write list; every other part is outside the register file. -/
theorem UnchangedBut.loadRegs : UnchangedBut ((regsUpTo x).map .reg) s (effect (.loadRegs x) s) where
  regs _ hr := effect_readV s (i := .loadRegs x) fun hmem => hr (List.mem_map_of_mem hmem)
  index _ := rfl
  pc _ := rfl
  memory _ _ := rfl
  stack _ := rfl
  sp _ := rfl
  display _ _ _ := rfl
  delayTimer _ := rfl
  soundTimer _ := rfl
  terminate _ := rfl
  fault _ := rfl
  keyWait _ := rfl
  host _ := ⟨rfl, rfl, rfl⟩

end Sys2Proof.Machine
end

section
/-! PROOFS. The instructions of the index register and of memory, each by its decoding, what it writes and its frame
(R171-R176). -/

namespace Sys2Proof.Machine

/-- Settles O49: each is one write of `I`, of the value that its rule gives. -/
theorem indexRegisterWrites : Obligations.IndexRegisterWrites := fun x nnn s =>
  ⟨Instr.StandsFor.decode_eq ⟨rfl, rfl⟩, decode_familyF_word (kk := 0x1E) ⟨rfl, rfl⟩,
    decode_familyF_word (kk := 0x29) ⟨rfl, rfl⟩, exec_of_effect_eq_setI rfl (toNat_zext16 nnn),
    exec_of_effect_eq_setI rfl (toNat_indexSum s.i (s.readV x)),
    exec_of_effect_eq_setI rfl (toNat_glyphAddr (s.readV x))⟩

/-- Settles O50: the three digits are read back inside the block, and every byte outside it is as it was. -/
theorem decimalDigitsStored : Obligations.DecimalDigitsStored := by
  intro x s hwf
  refine ⟨decode_familyF_word (kk := 0x33) ⟨rfl, rfl⟩, _, exec_eq_next_effect (.ldB x) s, ?_, ?_, ?_, ?_, ?_, ?_⟩
  · exact readByte_ldB_inside x hwf (k := 0) (by decide)
  · exact readByte_ldB_inside x hwf (k := 1) (by decide)
  · exact readByte_ldB_inside x hwf (k := 2) (by decide)
  · exact fun _ => readByte_ldB_outside x hwf
  · exact State.writeBlock_wf hwf s.i _
  · exact .writeBlock s s.i _

/-- Settles O51: each register is read back inside the block, and every byte outside it is as it was. -/
theorem registerBlockStored : Obligations.RegisterBlockStored := fun x s hwf =>
  ⟨decode_familyF_word (kk := 0x55) ⟨rfl, rfl⟩, _, exec_eq_next_effect (.storeRegs x) s,
    fun _ => readByte_storeRegs_inside x hwf, fun _ => readByte_storeRegs_outside x hwf,
    State.writeBlock_wf hwf s.i _, .writeBlock s s.i _⟩

/-- Settles O52: each register up to x takes its byte of the block, and the rest is the frame. -/
theorem registerBlockLoaded : Obligations.RegisterBlockLoaded := fun x s =>
  ⟨decode_familyF_word (kk := 0x65) ⟨rfl, rfl⟩, _, exec_eq_next_effect (.loadRegs x) s,
    fun _ => readV_loadRegs_inside s x, .loadRegs s x⟩

end Sys2Proof.Machine
end

section
/-! PROOFS. What the draw does, in the terms of the statements: the pixels that the sprite covers (`spriteCovers`), the pixels
and VF that the handler leaves, and which sprites cover a pixel at all (R191, R192). -/

namespace Sys2Proof.Machine

variable (x y : Reg) (n : Fin 16) (s : State)

/-! ### The covered pixels -/

theorem State.getElem?_readBlock (base : Word) (m k : Nat) :
    (s.readBlock base m)[k]? = if k < m then some (s.readByte (effAddr base k)) else none := by
  split
  · rw [List.getElem?_eq_getElem (by rwa [State.length_readBlock]), State.getElem_readBlock]
  · exact List.getElem?_eq_none (by rw [State.length_readBlock]; omega)

/-- The bits of the latched bytes are those that `spriteCovers` reads in memory. -/
theorem rowsBit_readBlock (r : Fin 32) (c : Fin 64) :
    rowsBit (s.readV x).toNat (s.readV y).toNat (s.readBlock s.i n.val) r c = spriteCovers s x y n r c := by
  rw [rowsBit, State.getElem?_readBlock, spriteCovers, spriteRow]
  generalize (r.val + 32 - (s.readV y).toNat % 32) % 32 = k
  by_cases hk : k < n.val
  · rw [if_pos hk, decide_eq_true hk, Bool.true_and]
    rfl
  · simp [hk]

variable {s} in
/-- The cover is a matter of the two coordinates, `I` and memory. -/
theorem spriteCovers_congr {t : State} (hx : t.readV x = s.readV x) (hy : t.readV y = s.readV y) (hi : t.i = s.i)
    (hmem : ∀ a, t.readByte a = s.readByte a) : spriteCovers t x y n = spriteCovers s x y n := by
  funext r c
  have hrow : spriteRow t y r = spriteRow s y r := by rw [spriteRow, hy, spriteRow]
  have hcol : spriteColumn t x c = spriteColumn s x c := by rw [spriteColumn, hx, spriteColumn]
  rw [spriteCovers, hrow, hcol, hi, hmem, spriteCovers]

/-- The display row `k` below the sprite's first, around the bottom. -/
theorem spriteRow_ofNat {k : Nat} (hk : k < 32) : spriteRow s y (Fin.ofNat 32 ((s.readV y).toNat + k)) = k := by
  simp only [spriteRow, Fin.ofNat]
  omega

/-- The display column `k` right of the sprite's first, around the right edge. -/
theorem spriteColumn_ofNat {k : Nat} (hk : k < 64) : spriteColumn s x (Fin.ofNat 64 ((s.readV x).toNat + k)) = k := by
  simp only [spriteColumn, Fin.ofNat]
  omega

/-- A byte other than 0 has a set bit, here by its place from the left (R192). -/
theorem exists_bit_of_ne_zero {b : Byte} (h : b ≠ 0) : ∃ k < 8, b.getLsbD (7 - k) = true := by
  by_contra hno
  refine h (BitVec.eq_of_getLsbD_eq fun j hj => ?_)
  have hbit : b.getLsbD (7 - (7 - j)) ≠ true := fun hset => hno ⟨7 - j, by omega, hset⟩
  simpa [show 7 - (7 - j) = j by omega] using hbit

/-- A sprite covers a pixel exactly when one of its rows is not 0: no bit of it falls outside the display (R191). -/
theorem exists_spriteCovers_iff :
    (∃ r c, spriteCovers s x y n r c = true) ↔ ∃ k < n.val, s.readByte (effAddr s.i k) ≠ 0 := by
  constructor
  · rintro ⟨r, c, hcov⟩
    simp only [spriteCovers, Bool.and_eq_true, decide_eq_true_eq] at hcov
    obtain ⟨⟨hrow, -⟩, hbit⟩ := hcov
    exact ⟨spriteRow s y r, hrow, fun hzero => by simp [hzero] at hbit⟩
  · rintro ⟨k, hk, hbyte⟩
    obtain ⟨j, hj, hbit⟩ := exists_bit_of_ne_zero hbyte
    refine ⟨Fin.ofNat 32 ((s.readV y).toNat + k), Fin.ofNat 64 ((s.readV x).toNat + j), ?_⟩
    rw [spriteCovers, spriteRow_ofNat y s (by omega), spriteColumn_ofNat x s (by omega)]
    simp [hk, hj, hbit]

/-! ### The handler -/

/-- The draw flips the covered pixels (R191). -/
theorem pixel_drw (r : Fin 32) (c : Fin 64) :
    (effect (.drw x y n) s).pixel r c = (s.pixel r c != spriteCovers s x y n r c) := by
  rw [← rowsBit_readBlock]
  exact (drawRows_spec _ _ _ (by rw [State.length_readBlock]; omega) (s.disp, false)).1 r c

/-- VF is the collision: whether a covered pixel was on (R191). -/
theorem readV_regF_drw : (effect (.drw x y n) s).readV regF =
    if ∃ r c, spriteCovers s x y n r c = true ∧ s.pixel r c = true then 1 else 0 := by
  have hflag := (drawRows_spec (s.readV x).toNat (s.readV y).toNat (s.readBlock s.i n.val)
    (by rw [State.length_readBlock]; omega) (s.disp, false)).2
  simp only [Bool.false_eq_true, false_or, rowsBit_readBlock] at hflag
  rw [effect, State.drawSprite, State.readV_writeV_same, flagByte]
  exact if_congr hflag rfl rfl

theorem UnchangedBut.drawSprite (cx cy : Nat) (rows : List Byte) :
    UnchangedBut [.display, .reg regF] s (s.drawSprite cx cy rows) :=
  ((UnchangedBut.withDisp s _).mono (by simp)).trans ((UnchangedBut.writeV _ regF _).mono (by simp))

/-! ### The second of two equal draws -/

variable {x y n s} {t : State}

/-- VF of a draw over the display that an equal draw has left: the first draw turned on the covered pixels that were off. -/
theorem readV_regF_drw_again (hcov : spriteCovers t x y n = spriteCovers s x y n)
    (hpix : ∀ r c, t.pixel r c = (effect (.drw x y n) s).pixel r c) :
    (effect (.drw x y n) t).readV regF =
      if ∃ r c, spriteCovers s x y n r c = true ∧ s.pixel r c = false then 1 else 0 := by
  rw [readV_regF_drw]
  refine if_congr (exists_congr fun r => exists_congr fun c => ?_) rfl rfl
  rw [hcov, hpix, pixel_drw]
  refine and_congr_right fun hset => ?_
  rw [hset, Bool.bne_true, Bool.not_eq_true']

end Sys2Proof.Machine
end

section
/-! PROOFS. The two instructions of the display, each by its decoding, the pixels it leaves and its frame, and the laws of two
equal draws (R190-R193). -/

namespace Sys2Proof.Machine

/-- Settles O54: the draw's pixels and flag in closed form, and its two writes. -/
theorem drawFlipsTheSpritePixels : Obligations.DrawFlipsTheSpritePixels := by
  intro x y n s
  refine ⟨Instr.StandsFor.decode_eq ⟨rfl, rfl⟩, _, exec_eq_next_effect (.drw x y n) s, pixel_drw x y n s,
    fun hhit => ?_, fun hoff => ?_, .drawSprite s _ _ _⟩
  · rw [readV_regF_drw, if_pos hhit]
  · rw [readV_regF_drw, if_neg]
    rintro ⟨r, c, hcov, hon⟩
    rw [hoff r c hcov] at hon
    exact Bool.false_ne_true hon

/-- Settles O55: the second draw covers the same pixels, so it flips each flipped pixel back, and it hits those that the
first turned on. -/
theorem drawTwiceRestoresTheDisplay : Obligations.DrawTwiceRestoresTheDisplay := by
  intro x y n s t h
  obtain rfl := exec_eq_next_iff.1 h
  refine ⟨fun r c hout => by rw [pixel_drw, hout, Bool.bne_false], fun t' hpix hx hy hi hmem => ?_⟩
  have hcov := spriteCovers_congr x y n hx hy hi hmem
  have hflag := readV_regF_drw_again hcov hpix
  refine ⟨_, exec_eq_next_effect (.drw x y n) t', fun r c => ?_, fun hoff => ?_, fun hon => ?_, fun hoff => ?_⟩
  · rw [pixel_drw, hcov, hpix, pixel_drw, Bool.bne_assoc, bne_self_eq_false, Bool.bne_false]
  · rw [hflag, if_pos hoff]
  · rw [hflag, if_neg]
    rintro ⟨r, c, hset, hoff⟩
    rw [hon r c hset] at hoff
    exact Bool.false_ne_true hoff.symm
  · rw [hflag]
    refine if_congr ?_ rfl rfl
    rw [← exists_spriteCovers_iff x y n s]
    exact exists_congr fun r => exists_congr fun c => and_iff_left_of_imp (hoff r c)

/-- Settles O53: a word decodes to CLS only if CLS encodes to it; the cleared display is one write. -/
theorem clearTurnsEveryPixelOff : Obligations.ClearTurnsEveryPixelOff := by
  refine ⟨rfl, fun w hw => ?_, fun s => ⟨_, exec_eq_next_effect .cls s, Display.pixel_clear, .withDisp s _⟩⟩
  have hencode := (encodeOfDecode w).2
  rw [hw] at hencode
  exact hencode.symm

end Sys2Proof.Machine
end

section
/-! PROOFS. What the instructions of the timers and keys share: the words of family E, the writes of the timers and of
`keyWait`, and the completion of a key-wait (R88, R203-R207). -/

namespace Sys2Proof.Machine

/-- A word of the `xkk` format with its selector at the opcode, as the statements write the words of family E (R88). -/
theorem decode_packXKK_word {op : Nat} {i : Instr} {x : Reg} {kk : Byte} (h : i.StandsFor (packXKK op x kk)) :
    decode (BitVec.ofNat 16 (0x1000 * op + kk.toNat + 0x100 * x.val)) = i := by
  have hword : packXKK op x kk = BitVec.ofNat 16 (0x1000 * op + kk.toNat + 0x100 * x.val) :=
    congrArg (BitVec.ofNat 16) (by omega)
  exact (hword ▸ h).decode_eq

variable (s : State)

/-- The host's key state is an array of the 256 values of a byte (R101, R200). -/
theorem State.keyDown_eq_getElem (b : Byte) : s.keyDown b = s.ports.keyDown[b.toNat] := rfl

/-- `sound` is on exactly while `ST` is not 0 (R42). -/
theorem State.sound_iff : s.sound = true ↔ s.st ≠ 0 := bne_iff_ne

/-! ### The frames -/

theorem UnchangedBut.setDt (b : Byte) : UnchangedBut [.delayTimer] s (s.setDt b) := by
  constructor <;> simp

theorem UnchangedBut.setSt (b : Byte) : UnchangedBut [.soundTimer] s (s.setSt b) := by
  constructor <;> simp

theorem UnchangedBut.setKeyWait (w : Option Reg) : UnchangedBut [.keyWait] s (s.setKeyWait w) := by
  constructor <;> simp

theorem UnchangedBut.hostTurn : UnchangedBut [.delayTimer, .soundTimer, .host] s s.hostTurn := by
  constructor <;> simp

theorem UnchangedBut.ticks_present (n : Nat) (h : HostInput) :
    UnchangedBut [.delayTimer, .soundTimer, .host] s ((s.ticks n).present h) := by
  constructor <;> simp

/-! ### The completion -/

variable {s}

/-- A waiting core with a key at the port: after the host's turn the key goes to the register (R107, R205). -/
theorem step_completes_keyWait {x : Reg} {k : Key} (h0 : s.haltedBy = none) (hx : s.keyWait = some x)
    (hk : s.nextInput.keyIn = some k) :
    ∃ t, step s = .next t ∧ (t.readV x).toNat = k.val ∧ t.keyWait = none ∧
      t.dt.toNat = s.dt.toNat - s.nextInput.ticks ∧ t.st.toNat = s.st.toNat - s.nextInput.ticks ∧
      UnchangedBut [.reg x, .keyWait, .delayTimer, .soundTimer, .host] s t := by
  refine ⟨_, step_waiting_key h0 hx hk, ?_, rfl, toNat_timerTicks _ s.dt, toNat_timerTicks _ s.st, ?_⟩
  · rw [State.readV_completeKeyWait, if_pos rfl, toNat_keyByte]
  · exact ((UnchangedBut.hostTurn s).mono (by simp)).trans ((UnchangedBut.completeKeyWait _ x k).mono (by simp))

end Sys2Proof.Machine
end

section
/-! PROOFS. The instructions of the timers and keys, each by its decoding, what it writes and its frame, and the steps of a
waiting core (R107, R201-R207). -/

namespace Sys2Proof.Machine

/-- Settles O12: ticks and the host's act leave a held core waiting, so the step after them is a completion too, and its
ticks add to those of the hold. -/
theorem keyWaitCompletesOrHolds : Obligations.KeyWaitCompletesOrHolds := by
  intro s x hterm hfault hx
  have h0 : s.haltedBy = none := s.haltedBy_none.2 ⟨hterm, hfault⟩
  refine ⟨fun _ => step_completes_keyWait h0 hx, fun hnone => ⟨step_waiting_held h0 hx hnone, fun n h k hk => ?_⟩⟩
  rw [← State.ticks_eq_iterate]
  obtain ⟨t, hstep, hkey, hwait, hdt, hst, hframe⟩ :=
    step_completes_keyWait (s := (s.ticks n).present h) (x := x) (k := k) h0 hx hk
  refine ⟨t, hstep, hkey, hwait, ?_, ?_, ((UnchangedBut.ticks_present s n h).mono (by simp)).trans hframe⟩
  · rw [hdt, State.present_dt, State.ticks_dt, State.present_nextInput, toNat_timerTicks, Nat.sub_sub]
  · rw [hst, State.present_st, State.ticks_st, State.present_nextInput, toNat_timerTicks, Nat.sub_sub]

/-- Settles O56: both are skips, on the host's value for key Vx and on its negation. -/
theorem keySkipsFollowTheHost : Obligations.KeySkipsFollowTheHost := by
  intro x s down
  have hdown : s.keyDown (s.readV x) = down := s.keyDown_eq_getElem (s.readV x)
  refine ⟨decode_packXKK_word (op := 0xE) (kk := 0x9E) ⟨rfl, rfl⟩, decode_packXKK_word (op := 0xE) (kk := 0xA1) ⟨rfl, rfl⟩,
    ⟨_, exec_eq_next_effect (.skp x) s, .setPc _, State.toNat_pc_skipIf ?_⟩,
    ⟨_, exec_eq_next_effect (.sknp x) s, .setPc _, State.toNat_pc_skipIf ?_⟩⟩
  · rw [hdown]
  · rw [hdown, Bool.not_eq_true']

/-- Settles O57: each is one write, of a register or of a timer. -/
theorem timerReadAndWrites : Obligations.TimerReadAndWrites := fun x s =>
  ⟨decode_familyF_word (kk := 0x07) ⟨rfl, rfl⟩, decode_familyF_word (kk := 0x15) ⟨rfl, rfl⟩,
    decode_familyF_word (kk := 0x18) ⟨rfl, rfl⟩, exec_of_effect_eq_writeV rfl,
    ⟨_, exec_eq_next_effect (.ldDtVx x) s, rfl, .setDt s _⟩,
    ⟨_, exec_eq_next_effect (.ldStVx x) s, rfl, State.sound_iff _, .setSt s _⟩⟩

/-- Settles O58: the handler writes `keyWait` and nothing else. -/
theorem keyWaitStarts : Obligations.KeyWaitStarts := fun x s =>
  ⟨decode_familyF_word (kk := 0x0A) ⟨rfl, rfl⟩, _, exec_eq_next_effect (.ldVxK x) s, rfl, rfl, .setKeyWait s _⟩

end Sys2Proof.Machine
end

section
/-! PROOFS. The tick and the host's turn (R230, R231). -/

namespace Sys2Proof.Machine

/-- A timer's tick by the spec's guard, `DT ≠ 0` (R230). -/
theorem timerTick_eq_ite_ne (t : Byte) : timerTick t = if t ≠ 0 then t - 1 else 0 := (ite_not ..).symm

theorem UnchangedBut.tick (s : State) : UnchangedBut [.delayTimer, .soundTimer] s s.tick := by
  constructor <;> simp

theorem UnchangedBut.samplePorts (s : State) : UnchangedBut [.host] s s.samplePorts := by
  constructor <;> simp

/-- Settles O22: the turn's ticks as one number are that many single ticks, and each takes one off a timer that is not 0. -/
theorem ticksFallBetweenSteps : Obligations.TicksFallBetweenSteps := fun s =>
  ⟨s.samplePorts.ticks_eq_iterate s.nextInput.ticks, .samplePorts s, toNat_timerTicks _ s.dt, toNat_timerTicks _ s.st⟩

/-- Settles O21: each timer by the spec's guard, and the frame of a tick. -/
theorem tickCountsDown : Obligations.TickCountsDown := fun s =>
  ⟨timerTick_eq_ite_ne s.dt, timerTick_eq_ite_ne s.st, .tick s⟩

end Sys2Proof.Machine
end

section
/-! PROOFS. Construction (R250-R253): when it answers a state, and what that state's memory and the fields of the state after
reset read as. -/

namespace Sys2Proof.Machine

variable {image : List Byte}

theorem construct_of_le (h : image.length ≤ Config.maxImage) :
    construct image = .next (State.reset.writeBlock Config.programBase image) := if_neg (Nat.not_lt.2 h)

theorem construct_of_gt (h : Config.maxImage < image.length) : construct image = .refused .imageTooLarge := if_pos h

/-- A state that construction answers is the state after reset with the image written from 0x200 on. -/
theorem eq_writeBlock_of_construct {t : State} (h : construct image = .next t) :
    t = State.reset.writeBlock Config.programBase image := by
  rcases Nat.lt_or_ge Config.maxImage image.length with hlen | hlen
  · rw [construct_of_gt hlen] at h
    cases h
  · rw [construct_of_le hlen] at h
    cases h
    rfl

/-! ### The state after reset -/

theorem State.readByte_reset_of_font_le {a : Addr} (h : 0x50 ≤ a.toNat) : State.reset.readByte a = 0 :=
  List.getD_eq_default Config.font 0 h

theorem State.readV_reset (r : Reg) : State.reset.readV r = 0 := Vector.getElem_replicate r.isLt

/-! ### The image's block -/

/-- An image that fits does not wrap around the address space. -/
theorem toNat_effAddr_programBase {k : Nat} (h : k < Config.maxImage) :
    (effAddr Config.programBase k).toNat = 0x200 + k := by
  have hbase : Config.programBase.toNat = 0x200 := rfl
  have hmax : Config.maxImage = 3584 := rfl
  rw [effAddr_toNat, hbase, Nat.mod_eq_of_lt (by omega)]

theorem State.readByte_image_outside (s : State) (hwf : s.mem.wf = true) (h : image.length ≤ Config.maxImage) {a : Addr}
    (ha : a.toNat < 0x200 ∨ 0x200 + image.length ≤ a.toNat) :
    (s.writeBlock Config.programBase image).readByte a = s.readByte a := by
  refine State.readByte_writeBlock_outside hwf _ image fun j hj heq => ?_
  have hj' := toNat_effAddr_programBase (hj.trans_le h)
  rw [← heq] at hj'
  omega

end Sys2Proof.Machine
end

section
/-! PROOFS. The obligations about construction (R250-R253). -/

namespace Sys2Proof.Machine

/-- Settles O15: the empty image writes no byte. -/
theorem resetIsEmptyConstruction : Obligations.ResetIsEmptyConstruction := construct_of_le (Nat.zero_le _)

/-- Settles O16: the image's bytes are read inside its block, the reset memory's outside it; the other fields are reset's. -/
theorem constructionLoadsTheImage : Obligations.ConstructionLoadsTheImage := by
  refine fun image => ⟨fun hlen => ⟨_, construct_of_le hlen, fun k hk => ?_, fun a ha => ?_, fun a hfont ha => ?_,
    fun a ha => ?_, State.readV_reset, rfl, rfl, rfl, List.length_replicate, fun _ => List.eq_of_mem_replicate,
    Display.pixel_clear, rfl, rfl, rfl, rfl, rfl⟩, construct_of_gt⟩
  · exact State.readByte_writeBlock_inside rfl Config.programBase image (by omega) hk
  · exact State.reset.readByte_image_outside rfl hlen (.inl (by omega))
  · exact (State.reset.readByte_image_outside rfl hlen (.inl ha)).trans (State.readByte_reset_of_font_le hfont)
  · exact (State.reset.readByte_image_outside rfl hlen (.inr ha)).trans (State.readByte_reset_of_font_le (by omega))

/-- Settles O19: the state after reset meets the invariant, and writing a block keeps it. -/
theorem invariantAtConstruction : Obligations.InvariantAtConstruction := by
  intro image t h
  rw [eq_writeBlock_of_construct h]
  exact State.Inv.writeBlock invariantAtReset Config.programBase image

end Sys2Proof.Machine
end

section
/-! PROOFS. The first step after reset, and the ticks between the write of a timer and the next step (R252, R260). -/

namespace Sys2Proof.Machine

variable {s : State} {i : Instr} {x : Reg}

/-- A running core that waits for no key takes the effect of its instruction, after the host's turn and the fetch advance. -/
theorem step_of_decode (h0 : s.haltedBy = none) (hwait : s.keyWait = none) (hi : decode s.fetchWord = i) :
    step s = .next (effect i s.hostTurn.advancePc) := by
  rw [step_running h0 hwait, hi, exec_eq_next_effect]

/-! ### The first step -/

@[simp] theorem timerTicks_stopped (n : Nat) : timerTicks n 0#8 = 0#8 :=
  BitVec.eq_of_toNat_eq ((toNat_timerTicks n 0#8).trans (Nat.zero_sub n))

/-- Ticks leave stopped timers as they are. -/
theorem UnchangedBut.hostTurn_advancePc_of_timers_zero (hdt : s.dt = 0) (hst : s.st = 0) :
    UnchangedBut [.pc, .host] s s.hostTurn.advancePc := by
  constructor <;> simp [hdt, hst]

/-- Settles O17: the word at 0x200 of the memory after reset is `SYS 0x000`, whose handler does nothing. -/
theorem firstStepAfterReset : Obligations.FirstStepAfterReset := by
  have hsys : decode State.reset.fetchWord = .sys 0 := by decide
  exact ⟨_, step_of_decode rfl rfl hsys, rfl, .hostTurn_advancePc_of_timers_zero rfl rfl⟩

/-! ### A timer after its write -/

/-- The sound output is on exactly while the sound timer has ticks left (R42, R233). -/
theorem State.sound_iff_toNat_pos (s : State) : s.sound = true ↔ 0 < s.st.toNat := by
  rw [State.sound_iff, Nat.pos_iff_ne_zero, ne_eq, ne_eq, BitVec.toNat_eq]
  rfl

theorem State.sound_hostTurn_iff (s : State) : s.hostTurn.sound = true ↔ s.nextInput.ticks < s.st.toNat := by
  rw [State.sound_iff_toNat_pos, State.hostTurn_st, toNat_timerTicks, Nat.sub_pos_iff_lt]

/-- `Fx07` reads the delay timer as the ticks before its own step leave it (R203, R231). -/
theorem step_ldVxDt_readV (h0 : s.haltedBy = none) (hwait : s.keyWait = none) (hi : decode s.fetchWord = .ldVxDt x) :
    ∃ u, step s = .next u ∧ (u.readV x).toNat = s.dt.toNat - s.nextInput.ticks := by
  refine ⟨_, step_of_decode h0 hwait hi, ?_⟩
  rw [effect, State.readV_writeV_same, State.advancePc_dt, State.hostTurn_dt, toNat_timerTicks]

/-- Settles O23: the write leaves Vx in its timer and the core running, and the ticks of the next host's turn count it
down. -/
theorem timerReadAfterWriteWindow : Obligations.TimerReadAfterWriteWindow := by
  intro s t x y hterm hfault hwait hstep
  have h0 : s.haltedBy = none := s.haltedBy_none.2 ⟨hterm, hfault⟩
  have ht : ∀ {i}, decode s.fetchWord = i → t = effect i s.hostTurn.advancePc := fun hi =>
    Host.Outcome.next.inj (hstep.symm.trans (step_of_decode h0 hwait hi))
  refine ⟨fun hwrite hread => ?_, fun hwrite => ?_⟩
  · obtain rfl := ht hwrite
    exact step_ldVxDt_readV h0 hwait hread
  · obtain rfl := ht hwrite
    exact ⟨toNat_timerTicks _ (s.readV x), State.sound_hostTurn_iff _⟩

end Sys2Proof.Machine
end
